-- ==== Sys2Proof/Word.lean ====
section
/-! DEFINITION. The value types of the spec (00_scope.md R8, R9): every architectural value is an
unsigned integer of a stated width; what is only an index is a `Fin`. -/

namespace Sys2Proof

/-- `u8`: a general register, a timer, a byte of memory (R8 `V_WIDTH`). -/
abbrev Byte := BitVec 8

/-- `u16`: an opcode, I, PC, a stack slot (R8 `I_WIDTH`, `PC_WIDTH`). -/
abbrev Word := BitVec 16

/-- `u12`: the address operand nnn (R9, R71). -/
abbrev Addr := BitVec 12

/-- A register index 0x0–0xF (R21). -/
abbrev Reg := Fin 16

/-- The sprite row count n of `DRW_VX_VY_N` (R16, R71). -/
abbrev Count := Fin 16

/-- A key index 0x0–0xF (R8 `KEY_COUNT`). -/
abbrev Key := Fin 16

/-- VF, the flag register (R24). -/
abbrev vf : Reg := 15

end Sys2Proof
end

