-- ==== Sys2Proof/Syntax.lean ====
section
/-! DEFINITION. The instructions: one constructor for each row of 30_encoding.md R78. -/

namespace Sys2Proof

/-- The 34 instructions of R3 and R78, each with the operands its row lists. -/
inductive Instr where
  | cls                                         -- 00E0 (R190)
  | ret                                         -- 00EE (R100)
  | jpAddr (nnn : Addr)                         -- 1nnn (R101)
  | callAddr (nnn : Addr)                       -- 2nnn (R102)
  | seVxKk (x : Reg) (kk : Byte)                -- 3xkk (R120)
  | sneVxKk (x : Reg) (kk : Byte)               -- 4xkk (R121)
  | seVxVy (x y : Reg)                          -- 5xy0 (R122)
  | ldVxKk (x : Reg) (kk : Byte)                -- 6xkk (R143)
  | addVxKk (x : Reg) (kk : Byte)               -- 7xkk (R144)
  | ldVxVy (x y : Reg)                          -- 8xy0 (R145)
  | orVxVy (x y : Reg)                          -- 8xy1 (R146)
  | andVxVy (x y : Reg)                         -- 8xy2 (R147)
  | xorVxVy (x y : Reg)                         -- 8xy3 (R148)
  | addVxVy (x y : Reg)                         -- 8xy4 (R149)
  | subVxVy (x y : Reg)                         -- 8xy5 (R150)
  | shrVx (x : Reg)                             -- 8xy6, y ignored (R80, R151)
  | subnVxVy (x y : Reg)                        -- 8xy7 (R152)
  | shlVx (x : Reg)                             -- 8xyE, y ignored (R80, R153)
  | sneVxVy (x y : Reg)                         -- 9xy0 (R123)
  | ldIAddr (nnn : Addr)                        -- Annn (R171)
  | jpV0Addr (nnn : Addr)                       -- Bnnn (R103)
  | rndVxKk (x : Reg) (kk : Byte)               -- Cxkk (R154)
  | drwVxVyN (x y : Reg) (n : Count)            -- Dxyn (R191)
  | skpVx (x : Reg)                             -- Ex9E (R124)
  | sknpVx (x : Reg)                            -- ExA1 (R125)
  | ldVxDt (x : Reg)                            -- Fx07 (R210)
  | ldVxK (x : Reg)                             -- Fx0A (R211)
  | ldDtVx (x : Reg)                            -- Fx15 (R212)
  | ldStVx (x : Reg)                            -- Fx18 (R213)
  | addIVx (x : Reg)                            -- Fx1E (R172)
  | ldFVx (x : Reg)                             -- Fx29 (R173)
  | ldBVx (x : Reg)                             -- Fx33 (R174)
  | ldIVx (x : Reg)                             -- Fx55 (R175)
  | ldVxI (x : Reg)                             -- Fx65 (R176)
  deriving DecidableEq, Repr

end Sys2Proof
end

