-- ==== Sys2Proof/WellFormed.lean ====
section
/-! DEFINITION. Instructions in the form the decoder of 30_encoding.md R74 returns them, an id with a list of
unsigned operand values, and when such a term is well-formed. A term of `Instr` carries its operand
ranges in its types, so every `Instr` is well-formed (R73: every value of every field is legal). -/

namespace Sys2Proof

/-- The operand kinds of R71: register index, 12-bit address, 8-bit immediate, nibble count. -/
inductive OperandKind where
  | reg
  | addr
  | byte
  | count
  deriving DecidableEq, Repr

/-- The range of a kind (R72). -/
def OperandKind.bound : OperandKind → Nat
  | .reg => 16
  | .addr => 4096
  | .byte => 256
  | .count => 16

/-- The instruction ids of R78. -/
inductive InstrId where
  | cls
  | ret
  | jpAddr
  | callAddr
  | seVxKk
  | sneVxKk
  | seVxVy
  | ldVxKk
  | addVxKk
  | ldVxVy
  | orVxVy
  | andVxVy
  | xorVxVy
  | addVxVy
  | subVxVy
  | shrVx
  | subnVxVy
  | shlVx
  | sneVxVy
  | ldIAddr
  | jpV0Addr
  | rndVxKk
  | drwVxVyN
  | skpVx
  | sknpVx
  | ldVxDt
  | ldVxK
  | ldDtVx
  | ldStVx
  | addIVx
  | ldFVx
  | ldBVx
  | ldIVx
  | ldVxI
  deriving DecidableEq, Repr

/-- The operand kinds of each id, in the order of R78's operand column; y of `SHR_VX` and `SHL_VX` is no operand (R80). -/
def InstrId.operands : InstrId → List OperandKind
  | .cls | .ret => []
  | .jpAddr | .callAddr | .ldIAddr | .jpV0Addr => [.addr]
  | .seVxKk | .sneVxKk | .ldVxKk | .addVxKk | .rndVxKk => [.reg, .byte]
  | .seVxVy | .ldVxVy | .orVxVy | .andVxVy | .xorVxVy | .addVxVy | .subVxVy | .subnVxVy
  | .sneVxVy => [.reg, .reg]
  | .shrVx | .shlVx | .skpVx | .sknpVx | .ldVxDt | .ldVxK | .ldDtVx | .ldStVx | .addIVx
  | .ldFVx | .ldBVx | .ldIVx | .ldVxI => [.reg]
  | .drwVxVyN => [.reg, .reg, .count]

/-- An instruction as an id with its operand values (what R74's `Decode` returns). -/
structure Term where
  id : InstrId
  operands : List Nat
  deriving DecidableEq, Repr

/-- Every operand lies in the range of its kind, and there are as many as the id has (R72, R74). -/
def operandsFit : List OperandKind → List Nat → Bool
  | [], [] => true
  | k :: ks, v :: vs => v < k.bound && operandsFit ks vs
  | [], _ :: _ => false
  | _ :: _, [] => false

/-- A term is well-formed when its operands fit its id. -/
def Term.wellFormed (t : Term) : Bool := operandsFit t.id.operands t.operands

/-- The id and operand values of an instruction (R74). -/
def Instr.term : Instr → Term
  | .cls => ⟨.cls, []⟩
  | .ret => ⟨.ret, []⟩
  | .jpAddr nnn => ⟨.jpAddr, [nnn.toNat]⟩
  | .callAddr nnn => ⟨.callAddr, [nnn.toNat]⟩
  | .seVxKk x kk => ⟨.seVxKk, [x.val, kk.toNat]⟩
  | .sneVxKk x kk => ⟨.sneVxKk, [x.val, kk.toNat]⟩
  | .seVxVy x y => ⟨.seVxVy, [x.val, y.val]⟩
  | .ldVxKk x kk => ⟨.ldVxKk, [x.val, kk.toNat]⟩
  | .addVxKk x kk => ⟨.addVxKk, [x.val, kk.toNat]⟩
  | .ldVxVy x y => ⟨.ldVxVy, [x.val, y.val]⟩
  | .orVxVy x y => ⟨.orVxVy, [x.val, y.val]⟩
  | .andVxVy x y => ⟨.andVxVy, [x.val, y.val]⟩
  | .xorVxVy x y => ⟨.xorVxVy, [x.val, y.val]⟩
  | .addVxVy x y => ⟨.addVxVy, [x.val, y.val]⟩
  | .subVxVy x y => ⟨.subVxVy, [x.val, y.val]⟩
  | .shrVx x => ⟨.shrVx, [x.val]⟩
  | .subnVxVy x y => ⟨.subnVxVy, [x.val, y.val]⟩
  | .shlVx x => ⟨.shlVx, [x.val]⟩
  | .sneVxVy x y => ⟨.sneVxVy, [x.val, y.val]⟩
  | .ldIAddr nnn => ⟨.ldIAddr, [nnn.toNat]⟩
  | .jpV0Addr nnn => ⟨.jpV0Addr, [nnn.toNat]⟩
  | .rndVxKk x kk => ⟨.rndVxKk, [x.val, kk.toNat]⟩
  | .drwVxVyN x y n => ⟨.drwVxVyN, [x.val, y.val, n.val]⟩
  | .skpVx x => ⟨.skpVx, [x.val]⟩
  | .sknpVx x => ⟨.sknpVx, [x.val]⟩
  | .ldVxDt x => ⟨.ldVxDt, [x.val]⟩
  | .ldVxK x => ⟨.ldVxK, [x.val]⟩
  | .ldDtVx x => ⟨.ldDtVx, [x.val]⟩
  | .ldStVx x => ⟨.ldStVx, [x.val]⟩
  | .addIVx x => ⟨.addIVx, [x.val]⟩
  | .ldFVx x => ⟨.ldFVx, [x.val]⟩
  | .ldBVx x => ⟨.ldBVx, [x.val]⟩
  | .ldIVx x => ⟨.ldIVx, [x.val]⟩
  | .ldVxI x => ⟨.ldVxI, [x.val]⟩

/-- Well-formedness of an instruction. -/
def Instr.wf (i : Instr) : Bool := i.term.wellFormed

end Sys2Proof
end

