-- ==== Sys2Proof/Decode.lean ====
section
/-! DEFINITION. The decoder of 30_encoding.md R74 over the table of R78, total on any bytes, and the
encoder and the assembler form written from the same field layouts (R71, R85). -/

namespace Sys2Proof

/-- `hi ++ lo` of R10: a 16-bit value from its two bytes, high byte first (R53). -/
def joinBytes (hi lo : Byte) : Word := hi ++ lo

/-- The high byte of a word. -/
def highByte (w : Word) : Byte := w.extractLsb' 8 8

/-- The low byte of a word. -/
def lowByte (w : Word) : Byte := w.extractLsb' 0 8

/-- Field x, `op[11:8]` (R71, R72). -/
def fieldX (op : Word) : Reg := (op.extractLsb' 8 4).toFin

/-- Field y, `op[7:4]` (R71, R72). -/
def fieldY (op : Word) : Reg := (op.extractLsb' 4 4).toFin

/-- Field n, `op[3:0]` (R71, R72). -/
def fieldN (op : Word) : Count := (op.extractLsb' 0 4).toFin

/-- Field kk, `op[7:0]` (R71, R72). -/
def fieldKk (op : Word) : Byte := op.extractLsb' 0 8

/-- Field nnn, `op[11:0]` (R71, R72). -/
def fieldNnn (op : Word) : Addr := op.extractLsb' 0 12

/-- A row of the decoder's table: id, mask and match value (R74). -/
structure Row where
  id : InstrId
  mask : Word
  value : Word
  deriving DecidableEq, Repr

/-- `(op & row.mask) = row.match` (R74). -/
def Row.accepts (r : Row) (op : Word) : Bool := op &&& r.mask == r.value

/-- The table of R78, in decoder order (bit patterns PRESUMED by the spec itself, log 13). -/
def table : List Row :=
  [⟨.cls, 0xFFFF, 0x00E0⟩,
   ⟨.ret, 0xFFFF, 0x00EE⟩,
   ⟨.jpAddr, 0xF000, 0x1000⟩,
   ⟨.callAddr, 0xF000, 0x2000⟩] ++
  [⟨.seVxKk, 0xF000, 0x3000⟩,
   ⟨.sneVxKk, 0xF000, 0x4000⟩,
   ⟨.seVxVy, 0xF00F, 0x5000⟩,
   ⟨.ldVxKk, 0xF000, 0x6000⟩] ++
  [⟨.addVxKk, 0xF000, 0x7000⟩,
   ⟨.ldVxVy, 0xF00F, 0x8000⟩,
   ⟨.orVxVy, 0xF00F, 0x8001⟩,
   ⟨.andVxVy, 0xF00F, 0x8002⟩] ++
  [⟨.xorVxVy, 0xF00F, 0x8003⟩,
   ⟨.addVxVy, 0xF00F, 0x8004⟩,
   ⟨.subVxVy, 0xF00F, 0x8005⟩,
   ⟨.shrVx, 0xF00F, 0x8006⟩] ++
  [⟨.subnVxVy, 0xF00F, 0x8007⟩,
   ⟨.shlVx, 0xF00F, 0x800E⟩,
   ⟨.sneVxVy, 0xF00F, 0x9000⟩,
   ⟨.ldIAddr, 0xF000, 0xA000⟩] ++
  [⟨.jpV0Addr, 0xF000, 0xB000⟩,
   ⟨.rndVxKk, 0xF000, 0xC000⟩,
   ⟨.drwVxVyN, 0xF000, 0xD000⟩,
   ⟨.skpVx, 0xF0FF, 0xE09E⟩] ++
  [⟨.sknpVx, 0xF0FF, 0xE0A1⟩,
   ⟨.ldVxDt, 0xF0FF, 0xF007⟩,
   ⟨.ldVxK, 0xF0FF, 0xF00A⟩,
   ⟨.ldDtVx, 0xF0FF, 0xF015⟩] ++
  [⟨.ldStVx, 0xF0FF, 0xF018⟩,
   ⟨.addIVx, 0xF0FF, 0xF01E⟩,
   ⟨.ldFVx, 0xF0FF, 0xF029⟩,
   ⟨.ldBVx, 0xF0FF, 0xF033⟩] ++
  [⟨.ldIVx, 0xF0FF, 0xF055⟩,
   ⟨.ldVxI, 0xF0FF, 0xF065⟩]

/-- The instruction of an id with the operands of an opcode, extracted by R72. -/
def build (op : Word) : InstrId → Instr
  | .cls => .cls
  | .ret => .ret
  | .jpAddr => .jpAddr (fieldNnn op)
  | .callAddr => .callAddr (fieldNnn op)
  | .seVxKk => .seVxKk (fieldX op) (fieldKk op)
  | .sneVxKk => .sneVxKk (fieldX op) (fieldKk op)
  | .seVxVy => .seVxVy (fieldX op) (fieldY op)
  | .ldVxKk => .ldVxKk (fieldX op) (fieldKk op)
  | .addVxKk => .addVxKk (fieldX op) (fieldKk op)
  | .ldVxVy => .ldVxVy (fieldX op) (fieldY op)
  | .orVxVy => .orVxVy (fieldX op) (fieldY op)
  | .andVxVy => .andVxVy (fieldX op) (fieldY op)
  | .xorVxVy => .xorVxVy (fieldX op) (fieldY op)
  | .addVxVy => .addVxVy (fieldX op) (fieldY op)
  | .subVxVy => .subVxVy (fieldX op) (fieldY op)
  | .shrVx => .shrVx (fieldX op)
  | .subnVxVy => .subnVxVy (fieldX op) (fieldY op)
  | .shlVx => .shlVx (fieldX op)
  | .sneVxVy => .sneVxVy (fieldX op) (fieldY op)
  | .ldIAddr => .ldIAddr (fieldNnn op)
  | .jpV0Addr => .jpV0Addr (fieldNnn op)
  | .rndVxKk => .rndVxKk (fieldX op) (fieldKk op)
  | .drwVxVyN => .drwVxVyN (fieldX op) (fieldY op) (fieldN op)
  | .skpVx => .skpVx (fieldX op)
  | .sknpVx => .sknpVx (fieldX op)
  | .ldVxDt => .ldVxDt (fieldX op)
  | .ldVxK => .ldVxK (fieldX op)
  | .ldDtVx => .ldDtVx (fieldX op)
  | .ldStVx => .ldStVx (fieldX op)
  | .addIVx => .addIVx (fieldX op)
  | .ldFVx => .ldFVx (fieldX op)
  | .ldBVx => .ldBVx (fieldX op)
  | .ldIVx => .ldIVx (fieldX op)
  | .ldVxI => .ldVxI (fieldX op)

/-- Why bytes are not an instruction. -/
inductive DecodeReject where
  /-- No row matches (R81): the `UnknownOpcode` failure, carrying the raw opcode value. -/
  | unknownOpcode (op : Word)
  /-- Fewer than the two bytes of an opcode (R70). -/
  | truncated
  deriving DecidableEq, Repr

/-- `Decode` of R74: the first row that matches, or the failure by name. -/
def decode (op : Word) : Except DecodeReject Instr :=
  match table.find? (fun r => r.accepts op) with
  | some r => .ok (build op r.id)
  | none => .error (.unknownOpcode op)

/-- Decoding from bytes: the first two, high byte first, are the opcode (R53, R70). -/
def decodeBytes : List Byte → Except DecodeReject (Instr × List Byte)
  | hi :: lo :: rest => (decode (joinBytes hi lo)).map fun i => (i, rest)
  | _ => .error .truncated

/-- Format nnn of R71. -/
def wordNnn (c : BitVec 4) (nnn : Addr) : Word := c ++ nnn

/-- Format xkk (and xff) of R71. -/
def wordXkk (c : BitVec 4) (x : Reg) (kk : Byte) : Word := c ++ BitVec.ofFin (w := 4) x ++ kk

/-- Formats xy0, xyf and xyn of R71. -/
def wordXyn (c : BitVec 4) (x y n : Fin 16) : Word :=
  c ++ BitVec.ofFin (w := 4) x ++ BitVec.ofFin (w := 4) y ++ BitVec.ofFin (w := 4) n

/-- The opcode of an instruction (R71, R78); y of `SHR_VX` and `SHL_VX` is written 0 (R85). -/
def encode : Instr → Word
  | .cls => 0x00E0
  | .ret => 0x00EE
  | .jpAddr nnn => wordNnn 0x1 nnn
  | .callAddr nnn => wordNnn 0x2 nnn
  | .seVxKk x kk => wordXkk 0x3 x kk
  | .sneVxKk x kk => wordXkk 0x4 x kk
  | .seVxVy x y => wordXyn 0x5 x y 0x0
  | .ldVxKk x kk => wordXkk 0x6 x kk
  | .addVxKk x kk => wordXkk 0x7 x kk
  | .ldVxVy x y => wordXyn 0x8 x y 0x0
  | .orVxVy x y => wordXyn 0x8 x y 0x1
  | .andVxVy x y => wordXyn 0x8 x y 0x2
  | .xorVxVy x y => wordXyn 0x8 x y 0x3
  | .addVxVy x y => wordXyn 0x8 x y 0x4
  | .subVxVy x y => wordXyn 0x8 x y 0x5
  | .shrVx x => wordXyn 0x8 x 0 0x6
  | .subnVxVy x y => wordXyn 0x8 x y 0x7
  | .shlVx x => wordXyn 0x8 x 0 0xE
  | .sneVxVy x y => wordXyn 0x9 x y 0x0
  | .ldIAddr nnn => wordNnn 0xA nnn
  | .jpV0Addr nnn => wordNnn 0xB nnn
  | .rndVxKk x kk => wordXkk 0xC x kk
  | .drwVxVyN x y n => wordXyn 0xD x y n
  | .skpVx x => wordXkk 0xE x 0x9E
  | .sknpVx x => wordXkk 0xE x 0xA1
  | .ldVxDt x => wordXkk 0xF x 0x07
  | .ldVxK x => wordXkk 0xF x 0x0A
  | .ldDtVx x => wordXkk 0xF x 0x15
  | .ldStVx x => wordXkk 0xF x 0x18
  | .addIVx x => wordXkk 0xF x 0x1E
  | .ldFVx x => wordXkk 0xF x 0x29
  | .ldBVx x => wordXkk 0xF x 0x33
  | .ldIVx x => wordXkk 0xF x 0x55
  | .ldVxI x => wordXkk 0xF x 0x65

/-- The bytes of an instruction as memory holds them, high byte first (R53). -/
def encodeBytes (i : Instr) : List Byte := [highByte (encode i), lowByte (encode i)]

/-- The decoder on an opcode-table row: the bits of a row, numbered from the least significant bit of its
one word, laid out as the hardware stores them. -/
def decodeTableWord (nbits w : Nat) : Option Instr :=
  let op : Word := BitVec.ofNat 16 (w % 2 ^ nbits)
  match decodeBytes [highByte op, lowByte op] with
  | .ok (i, _) => some i
  | .error _ => none

/-! ### The assembler form (R85; log 16) -/

/-- A hex digit. -/
def hexDigit (d : Fin 16) : String :=
  (["0", "1", "2", "3", "4", "5", "6", "7"] ++ ["8", "9", "A", "B", "C", "D", "E", "F"]).getD d.val ""

/-- A register: `V0` to `VF`. -/
def asmReg (x : Reg) : String := "V" ++ hexDigit x

/-- A byte in `0x` hex. -/
def asmByte (kk : Byte) : String :=
  "0x" ++ hexDigit (kk.extractLsb' 4 4).toFin ++ hexDigit (kk.extractLsb' 0 4).toFin

/-- An address in `0x` hex. -/
def asmAddr (nnn : Addr) : String :=
  "0x" ++ hexDigit (nnn.extractLsb' 8 4).toFin ++ hexDigit (nnn.extractLsb' 4 4).toFin ++
    hexDigit (nnn.extractLsb' 0 4).toFin

/-- A mnemonic with two operands. -/
def asm₂ (mnemonic a b : String) : String := mnemonic ++ " " ++ a ++ ", " ++ b

/-- The assembler form of an instruction (R85). -/
def Instr.asm : Instr → String
  | .cls => "CLS"
  | .ret => "RET"
  | .jpAddr nnn => "JP " ++ asmAddr nnn
  | .callAddr nnn => "CALL " ++ asmAddr nnn
  | .seVxKk x kk => asm₂ "SE" (asmReg x) (asmByte kk)
  | .sneVxKk x kk => asm₂ "SNE" (asmReg x) (asmByte kk)
  | .seVxVy x y => asm₂ "SE" (asmReg x) (asmReg y)
  | .ldVxKk x kk => asm₂ "LD" (asmReg x) (asmByte kk)
  | .addVxKk x kk => asm₂ "ADD" (asmReg x) (asmByte kk)
  | .ldVxVy x y => asm₂ "LD" (asmReg x) (asmReg y)
  | .orVxVy x y => asm₂ "OR" (asmReg x) (asmReg y)
  | .andVxVy x y => asm₂ "AND" (asmReg x) (asmReg y)
  | .xorVxVy x y => asm₂ "XOR" (asmReg x) (asmReg y)
  | .addVxVy x y => asm₂ "ADD" (asmReg x) (asmReg y)
  | .subVxVy x y => asm₂ "SUB" (asmReg x) (asmReg y)
  | .shrVx x => "SHR " ++ asmReg x
  | .subnVxVy x y => asm₂ "SUBN" (asmReg x) (asmReg y)
  | .shlVx x => "SHL " ++ asmReg x
  | .sneVxVy x y => asm₂ "SNE" (asmReg x) (asmReg y)
  | .ldIAddr nnn => asm₂ "LD" "I" (asmAddr nnn)
  | .jpV0Addr nnn => asm₂ "JP" "V0" (asmAddr nnn)
  | .rndVxKk x kk => asm₂ "RND" (asmReg x) (asmByte kk)
  | .drwVxVyN x y n => asm₂ "DRW" (asmReg x) (asmReg y) ++ ", 0x" ++ hexDigit n
  | .skpVx x => "SKP " ++ asmReg x
  | .sknpVx x => "SKNP " ++ asmReg x
  | .ldVxDt x => asm₂ "LD" (asmReg x) "DT"
  | .ldVxK x => asm₂ "LD" (asmReg x) "K"
  | .ldDtVx x => asm₂ "LD" "DT" (asmReg x)
  | .ldStVx x => asm₂ "LD" "ST" (asmReg x)
  | .addIVx x => asm₂ "ADD" "I" (asmReg x)
  | .ldFVx x => asm₂ "LD" "F" (asmReg x)
  | .ldBVx x => asm₂ "LD" "B" (asmReg x)
  | .ldIVx x => asm₂ "LD" "[I]" (asmReg x)
  | .ldVxI x => asm₂ "LD" (asmReg x) "[I]"

end Sys2Proof
end

