-- ==== Sys2Proof/Config.lean ====
section
/-! DEFINITION. The parameters of the core with this hardware's values (00_scope.md R8), the font
(10_state.md R40), and the free values the spec leaves open, as opaque constants. -/

namespace Sys2Proof.Config

/-- `MEM_SIZE` (R8). -/
abbrev memSize : Nat := 4096

/-- `PROG_BASE` (R8). -/
abbrev progBase : Word := 0x200

/-- `FONT_BASE` (R8). -/
abbrev fontBase : Nat := 0

/-- `GLYPH_BYTES` (R8). -/
abbrev glyphBytes : Nat := 5

/-- `MAX_ROM` (R8): the bytes from 0x200 to 0xFFF. -/
abbrev maxRom : Nat := 3584

/-- The default of `DISPLAY_W` (R8, R192; PRESUMED default, log 13). The frame buffer, the port and the operations on
them take the display size as arguments; `State` passes the defaults. -/
abbrev displayW : Nat := 64

/-- The default of `DISPLAY_H` (R8, R192; PRESUMED default, log 13). -/
abbrev displayH : Nat := 32

/-- `ODD_PC_POLICY` (R8, R30). -/
inductive OddPcPolicy where
  | fault
  | fetch
  deriving DecidableEq, Repr

/-- `ODD_ROM_POLICY` (R8, R271). -/
inductive OddRomPolicy where
  | pad
  | drop
  deriving DecidableEq, Repr

/-- `VF_DEST_POLICY` (R8, R142). -/
inductive VfDestPolicy where
  | flagWins
  | draw2
  deriving DecidableEq, Repr

/-- This hardware's `ODD_PC_POLICY` (R8, D6). -/
abbrev oddPcPolicy : OddPcPolicy := .fault

/-- This hardware's `ODD_ROM_POLICY` (R8, D9). -/
abbrev oddRomPolicy : OddRomPolicy := .pad

/-- This hardware's `VF_DEST_POLICY` (R8, D16). -/
abbrev vfDestPolicy : VfDestPolicy := .flagWins

/-- This hardware's `BLOCK_INCLUSIVE` (R8, D29). -/
abbrev blockInclusive : Bool := false

/-- A font table, the type of the parameter `FONT_BYTES : 80 × u8` (R40): five bytes a hex digit. -/
abbrev FontTable := Vector Byte 80

/-- The default of `FONT_BYTES` (R40; PRESUMED default, log 13). The operations that read a font table take it as
an argument; `step` passes this one. -/
def fontBytes : FontTable where
  toArray := Array.mk <|
    [0xF0, 0x90, 0x90, 0x90, 0xF0] ++ [0x20, 0x60, 0x20, 0x20, 0x70] ++
    [0xF0, 0x10, 0xF0, 0x80, 0xF0] ++ [0xF0, 0x10, 0xF0, 0x10, 0xF0] ++
    [0x90, 0x90, 0xF0, 0x10, 0x10] ++ [0xF0, 0x80, 0xF0, 0x10, 0xF0] ++
    [0xF0, 0x80, 0xF0, 0x90, 0xF0] ++ [0xF0, 0x10, 0x20, 0x40, 0x40] ++
    [0xF0, 0x90, 0xF0, 0x90, 0xF0] ++ [0xF0, 0x90, 0xF0, 0x10, 0xF0] ++
    [0xF0, 0x90, 0xF0, 0x90, 0x90] ++ [0xE0, 0x90, 0xE0, 0x90, 0xE0] ++
    [0xF0, 0x80, 0x80, 0x80, 0xF0] ++ [0xE0, 0x90, 0x90, 0x90, 0xE0] ++
    [0xF0, 0x80, 0xF0, 0x80, 0xF0] ++ [0xF0, 0x80, 0xF0, 0x80, 0x80]
  size_toArray := rfl

/-- The port's frame buffer, `FB[px][py]`, on a display of `w` × `h` pixels (R39, R192). -/
abbrev FrameBuffer (w h : Nat) := Vector (Vector Bool h) w

/-- `INITIAL_FB` (R8, R275, D24 OPEN): the frame buffer at power-on, an open parameter (log 5). -/
opaque initialFb (w h : Nat) : FrameBuffer w h

/-- The answer of `PortKeys` at a draw (R253: any 16-bit mask; log 4). -/
opaque freeKeyMask : Nat → Word

/-- The answer of `PortWaitKey` at a draw (R254: none or any key; log 4). -/
opaque freeKeyPress : Nat → Option Key

/-- The byte of `Rnd` at a draw (R255: any byte; log 4). -/
opaque freeRandomByte : Nat → Byte

/-- Under `VF_DEST_POLICY = draw2` only: whether VF ends holding the flag (R142; log 10). -/
opaque freeFlagWins : Nat → Bool

end Sys2Proof.Config
end

