-- ==== Sys2Proof/Machine/State.lean ====
section
/-! DEFINITION. The state of the machine (10_state.md R20, R37, R39) as plain data, its reset value
(R41, 70_reset_and_hazards.md R273), and the reasons a step can stop. -/

namespace Sys2Proof.Machine

/-- Why a step stops with no next state. It never does: every error of R231 is a transition into the
FAULTED state (R236, C9), a next state whose latch holds the fault (log 1). -/
inductive Fault where
  deriving DecidableEq, Repr

/-- Why a step has no meaning. -/
inductive Refusal where
  /-- Raised by an arm of `exec` whose instruction has no meaning yet; no arm does now. Safe. -/
  | notModelled (mnemonic : String)
  /-- Raised by `runAction` when the host issues a command before the previous one replied: a protocol
  violation with no defined effect (60_exceptions.md R249, D36; log 3). Safe. -/
  | overlappedCommand
  deriving DecidableEq, Repr

/-- `FAULT.code` (R37); 6 and 7 are never written, so they have no constructor (log 9). -/
inductive FaultCode where
  | none
  | unknownOpcode
  | stackOverflow
  | stackUnderflow
  | memoryOutOfBounds
  | misalignedPc
  deriving DecidableEq, Repr

/-- The fault latch `FAULT` (R37). -/
structure FaultLatch where
  code : FaultCode
  pc : Word
  opcode : Word
  addr : Word
  deriving DecidableEq, Repr

/-- The latch of a core that is not FAULTED: all fields 0 (R41). -/
abbrev FaultLatch.clear : FaultLatch := ⟨.none, 0, 0, 0⟩

/-- Memory: the bytes that differ from what `LOAD` leaves there before the ROM, addresses rising (R50;
log 8). -/
abbrev Memory := List Host.Cell

/-- One interaction with the port or the random input, with its answer (00_scope.md R14), on a display of `w` × `h`
pixels. -/
inductive PortCall (w h : Nat) where
  | clear
  | draw (bit : Bool) (px : Fin w) (py : Fin h) (collision : Bool)
  | keys (mask : Word)
  | waitKey (answer : Option Key)
  | random (byte : Byte)
  deriving DecidableEq, Repr

/-- The port of a display of `w` × `h` pixels (44_display.md R192): its frame buffer (R39, R250) and the interactions so
far, oldest first (log 6). -/
structure Port (w h : Nat) where
  fb : Config.FrameBuffer w h
  calls : List (PortCall w h)
  deriving DecidableEq, Repr

/-- The port at power-on: the open frame buffer (R275; log 5), no interaction yet. -/
def Port.powerOn (w h : Nat) : Port w h := ⟨Config.initialFb w h, []⟩

/-- What the host does next (R248). -/
inductive HostAction where
  | load (rom : List Byte)
  | step
  | tick
  /-- A command issued before the previous one replied (R249). -/
  | overlapped
  deriving DecidableEq, Repr

/-- What the environment has already decided (the model's own, logs 2 and 4): host actions, and answers of
the inputs; past the end of a list the action is STEP and an answer is free, the `draws`-th draw. -/
structure Inputs where
  actions : List HostAction
  keyMasks : List Word
  keyPresses : List (Option Key)
  randomBytes : List Byte
  draws : Nat
  deriving DecidableEq, Repr

/-- The state: the core's (R20), the port's (R39) and the environment's inputs. SP is held as the depth
SP + 1, 0 to 16 = `STACK_DEPTH` (R33; log 7). -/
structure State where
  mem : Memory
  v : Vector Byte 16
  i : Word
  pc : Word
  stack : Vector Word 16
  depth : Fin 17
  dt : Byte
  st : Byte
  fault : FaultLatch
  port : Port Config.displayW Config.displayH
  inputs : Inputs
  deriving DecidableEq, Repr

/-- Power-on reset: the state `LOAD` of an empty ROM gives (R41, R273), with the open frame buffer
(R275), no interaction yet and nothing decided by the environment. -/
def State.reset : State where
  mem := []
  v := Vector.replicate 16 0
  i := 0
  pc := Config.progBase
  stack := Vector.replicate 16 0
  depth := 0
  dt := 0
  st := 0
  fault := FaultLatch.clear
  port := Port.powerOn Config.displayW Config.displayH
  inputs := ⟨[], [], [], [], 0⟩

end Sys2Proof.Machine
end

