-- ==== Sys2Proof/Machine/Ops.lean ====
section
/-! DEFINITION. The named operations over memory, the program counter, the stack, the fault latch, the
port and the inputs (00_scope.md R11–R14). -/

namespace Sys2Proof.Machine

/-- The result type of a meaning. -/
abbrev Result := Host.Outcome State Fault Refusal

/-! ### Memory -/

/-- What `LOAD` leaves at an address before the ROM under a font table: the table from `FONT_BASE` and 0
elsewhere (R40, R41, R51, R270). -/
def byteBeforeRom (font : Config.FontTable) (a : Nat) : Byte := font.toList.getD (a - Config.fontBase) 0

/-- What an unlisted address reads as: what `LOAD` leaves there before the ROM under the default font table
(R41; log 8). -/
def initialByte (a : Nat) : Byte := byteBeforeRom Config.fontBytes a

/-- `MemRead(addr, 1)` (R12). -/
def Memory.read : Memory → Nat → Byte
  | [], a => initialByte a
  | (k, b) :: m, a => if a = k then b else Memory.read m a

/-- `MemWrite(addr, 1, v)` (R12), keeping the canonical form. -/
def Memory.write : Memory → Nat → Byte → Memory
  | [], a, b => if b = initialByte a then [] else [(a, b)]
  | (k, c) :: m, a, b =>
    if a < k then
      if b = initialByte a then (k, c) :: m else (a, b) :: (k, c) :: m
    else if a = k then
      if b = initialByte a then m else (a, b) :: m
    else (k, c) :: Memory.write m a b

/-- The canonical form from a lowest allowed address on: addresses rising and inside the 4096 bytes, no entry
equal to what an unlisted address reads as. -/
def Memory.wfFrom : Nat → Memory → Bool
  | _, [] => true
  | lo, (k, b) :: m => lo ≤ k && k < Config.memSize && b != initialByte k && Memory.wfFrom (k + 1) m

/-- Memory is in canonical form. -/
def Memory.wf (m : Memory) : Bool := Memory.wfFrom 0 m

/-- The writes of consecutive bytes from an address, lowest first (R54, R57). -/
def Memory.writeBytes : Memory → Nat → List Byte → Memory
  | m, _, [] => m
  | m, a, b :: bs => Memory.writeBytes (m.write a b) (a + 1) bs

/-- `MemRead(addr, 2)`, big-endian (R12, R53). -/
def Memory.readWord (m : Memory) (a : Nat) : Word := joinBytes (m.read a) (m.read (a + 1))

/-- The bounds check of R55 on `n` consecutive bytes from `base`: the lowest out-of-range address when the
access reaches past 0xFFF; no access makes no check. -/
def outOfRange (base n : Nat) : Option Word :=
  if 0 < n ∧ Config.memSize < base + n then some (BitVec.ofNat 16 (max base Config.memSize)) else none

/-! ### Faults -/

/-- The number of a fault code (R37, R231). -/
def FaultCode.bits : FaultCode → BitVec 3
  | .none => 0
  | .unknownOpcode => 1
  | .stackOverflow => 2
  | .stackUnderflow => 3
  | .memoryOutOfBounds => 4
  | .misalignedPc => 5

/-- `FAULTED` (R37, R257). -/
def State.faulted (s : State) : Bool := s.fault.code != .none

/-- `SOUND_ON` (R36, R257). -/
def State.soundOn (s : State) : Bool := s.st != 0

/-- Fault entry (R236): the latch is written and nothing else, PC included. -/
def State.raise (s : State) (code : FaultCode) (opcode addr : Word) : State :=
  { s with fault := ⟨code, s.pc, opcode, addr⟩ }

/-- A meaning that raises a fault (R13): a next state, FAULTED (C9; log 1). -/
def raiseFault (s : State) (code : FaultCode) (opcode addr : Word) : Result :=
  .next (s.raise code opcode addr)

/-- A data access of `n` bytes from I: the bounds check before any effect (R15, R55), then the effect. -/
def checkedAccess (i : Instr) (n : Nat) (s : State) (effect : State) : Result :=
  match outOfRange s.i.toNat n with
  | some a => raiseFault s .memoryOutOfBounds (encode i) a
  | none => .next effect

/-! ### Program counter and stack -/

/-- "next" of R16: PC ← P + 2. -/
def State.next (s : State) : State := { s with pc := s.pc + 2 }

/-- "skip" of R16 when the condition holds, else "next" (R126). -/
def State.skipIf (s : State) (c : Bool) : State := { s with pc := s.pc + if c then 4 else 2 }

/-- PC ← target. -/
def State.jump (s : State) (target : Word) : State := { s with pc := target }

/-- SP, −1 to 15 (R33). -/
def State.sp (s : State) : Int := (s.depth.val : Int) - 1

/-- Push (R33): SP ← SP + 1; Stack[SP] ← w. None when SP = 15. -/
def State.push? (s : State) (w : Word) : Option State :=
  if h : s.depth.val < 16 then
    some { s with stack := s.stack.set s.depth.val w, depth := ⟨s.depth.val + 1, by omega⟩ }
  else none

/-- Pop (R33): Stack[SP], and SP ← SP − 1; the slot keeps its value (R100). None when SP = −1. -/
def State.pop? (s : State) : Option (Word × State) :=
  if h : 0 < s.depth.val then
    some (s.stack[s.depth.val - 1]'(by omega), { s with depth := ⟨s.depth.val - 1, by omega⟩ })
  else none

/-! ### The port and the inputs -/

/-- Record an interaction. -/
def Port.record {w h : Nat} (p : Port w h) (c : PortCall w h) : Port w h := { p with calls := p.calls ++ [c] }

/-- `PortClear()` (R251): the frame buffer becomes all zero. -/
def Port.clear {w h : Nat} (p : Port w h) : Port w h :=
  Port.record { p with fb := Vector.replicate _ (Vector.replicate _ false) } .clear

/-- A pixel of the frame buffer. -/
def Port.pixel {w h : Nat} (p : Port w h) (px : Fin w) (py : Fin h) : Bool := p.fb[px][py]

/-- `PortDraw(bit, px, py)` (R252): XOR into the pixel, and the collision `old & bit`. -/
def Port.draw {w h : Nat} (p : Port w h) (bit : Bool) (px : Fin w) (py : Fin h) : Port w h × Bool :=
  let old := p.pixel px py
  let column := p.fb[px].set py (old ^^ bit)
  (Port.record { p with fb := p.fb.set px column } (.draw bit px py (old && bit)), old && bit)

/-- One pixel request of a sprite on a display of `w` × `h` pixels. -/
structure PixelRequest (w h : Nat) where
  bit : Bool
  px : Fin w
  py : Fin h
  deriving DecidableEq, Repr

/-- The requests of a sprite in order, and whether any collided (R191). -/
def Port.drawAll {w h : Nat} : Port w h → List (PixelRequest w h) → Port w h × Bool
  | p, [] => (p, false)
  | p, r :: rs =>
    let (p₁, c) := p.draw r.bit r.px r.py
    let (p₂, cs) := p₁.drawAll rs
    (p₂, c || cs)

/-- `PortKeys()` (R253): the next decided mask, else a free one (log 4). -/
def Inputs.nextKeyMask (e : Inputs) : Word := e.keyMasks.headD (Config.freeKeyMask e.draws)

/-- `PortWaitKey()` (R254): the next decided answer, else a free one (log 4). -/
def Inputs.nextKeyPress (e : Inputs) : Option Key := e.keyPresses.headD (Config.freeKeyPress e.draws)

/-- `Rnd()` (R255): the next decided byte, else a free one (log 4). -/
def Inputs.nextRandomByte (e : Inputs) : Byte := e.randomBytes.headD (Config.freeRandomByte e.draws)

/-- The state after `PortKeys()` was answered: its answer is used up and recorded. -/
def State.askKeys (s : State) : State :=
  { s with
    port := s.port.record (.keys s.inputs.nextKeyMask)
    inputs := { s.inputs with keyMasks := s.inputs.keyMasks.tail, draws := s.inputs.draws + 1 } }

/-- The state after `PortWaitKey()` was answered: a press it answered is consumed (R254). -/
def State.askWaitKey (s : State) : State :=
  { s with
    port := s.port.record (.waitKey s.inputs.nextKeyPress)
    inputs := { s.inputs with keyPresses := s.inputs.keyPresses.tail, draws := s.inputs.draws + 1 } }

/-- The state after `Rnd()` was answered. -/
def State.askRandom (s : State) : State :=
  { s with
    port := s.port.record (.random s.inputs.nextRandomByte)
    inputs := { s.inputs with randomBytes := s.inputs.randomBytes.tail, draws := s.inputs.draws + 1 } }

end Sys2Proof.Machine
end

