-- ==== Sys2Proof/Machine/Operands.lean ====
section
/-! DEFINITION. Register operands and the values computed from operands. -/

namespace Sys2Proof.Machine

/-- `V[x]` (R11, R21). -/
def State.reg (s : State) (x : Reg) : Byte := s.v[x]

/-- `V[x] <- b` (R11, R21): every register is ordinary storage, none is hard-wired. -/
def State.setReg (s : State) (x : Reg) (b : Byte) : State := { s with v := s.v.set x b }

/-- `zext_16` of an address operand (R9, R73). -/
def addrWord (nnn : Addr) : Word := nnn.setWidth 16

/-- `zext_16` of a byte (R9, R73). -/
def byteWord (b : Byte) : Word := b.setWidth 16

/-- Whether the key that Vx names is held in a mask (R124): no key from 16 up. -/
def keyHeld (mask : Word) (vx : Byte) : Bool := vx.toNat < 16 && mask.getLsbD vx.toNat

/-- `BlockCount(x)` (R170). -/
def blockCount (inclusive : Bool) (x : Reg) : Nat := if inclusive then x.val + 1 else x.val

/-- The registers V0..V(c−1) (R170, R175). -/
def State.block (s : State) (c : Nat) : List Byte := s.v.toList.take c

/-- The registers after V0..V(c−1) are loaded from memory at `base` (R176). -/
def State.loadBlock (s : State) (base c : Nat) : State :=
  { s with v := Vector.ofFn fun r : Fin 16 => if r.val < c then s.mem.read (base + r.val) else s.v[r] }

/-- The decimal digits of a byte, hundreds first (R174). -/
def bcdDigits (b : Byte) : List Byte :=
  [BitVec.ofNat 8 (b.toNat / 100), BitVec.ofNat 8 (b.toNat / 10 % 10), BitVec.ofNat 8 (b.toNat % 10)]

/-- The address of the glyph of a digit: `Vx × 5` (R173). -/
def glyphAddress (b : Byte) : Word := byteWord b * BitVec.ofNat 16 Config.glyphBytes

/-- The request for one sprite bit on a display of `w` × `h` pixels: column `col` (MSB first) of row `row`, wrapped
around both edges (R191, R192). -/
def pixelRequest (w h : Nat) [NeZero w] [NeZero h] (sprite bx by_ : Byte) (row col : Nat) : PixelRequest w h where
  bit := sprite.getLsbD (7 - col)
  px := Fin.ofNat w (bx.toNat + col)
  py := Fin.ofNat h (by_.toNat + row)

/-- The requests of a sprite of `n` rows at `base`, row by row and within a row from bit 7 to bit 0 (R191). -/
def spriteRequests (w h : Nat) [NeZero w] [NeZero h] (m : Memory) (base n : Nat) (bx by_ : Byte) :
    List (PixelRequest w h) :=
  (List.range n).flatMap fun row =>
    (List.range 8).map fun col => pixelRequest w h (m.read (base + row)) bx by_ row col

end Sys2Proof.Machine
end

