-- ==== Sys2Proof/Machine/Flags.lean ====
section
/-! DEFINITION. The values VF takes (10_state.md R24, 42_alu.md R140) and the write of a result with its
flag (R142). -/

namespace Sys2Proof.Machine

/-- A flag as a register value: 1 or 0 (R24). -/
def flagByte (c : Bool) : Byte := if c then 1 else 0

/-- Carry of `a + b`: the unwrapped sum exceeds 255 (R149). -/
def carries (a b : Byte) : Bool := 255 < a.toNat + b.toNat

/-- Flag of `a − b`: a is strictly greater (R150, R152). -/
def exceeds (a b : Byte) : Bool := b.toNat < a.toNat

/-- Bit 0 (R151). -/
def lowBit (a : Byte) : Bool := a.getLsbD 0

/-- Bit 7 (R153). -/
def topBit (a : Byte) : Bool := a.getLsbD 7

/-- The write of a result to Vx and of a flag to VF, flag last (R142); under `draw2`, with x = 0xF, VF ends
holding either, a free choice. -/
def State.setFlaggedBy (p : Config.VfDestPolicy) (s : State) (x : Reg) (result : Byte) (c : Bool) :
    State :=
  match p with
  | .flagWins => (s.setReg x result).setReg vf (flagByte c)
  | .draw2 =>
    if x = vf then
      let t := s.setReg vf (if Config.freeFlagWins s.inputs.draws then flagByte c else result)
      { t with inputs := { t.inputs with draws := t.inputs.draws + 1 } }
    else (s.setReg x result).setReg vf (flagByte c)

/-- `setFlaggedBy` under this hardware's `VF_DEST_POLICY` (R8, R142). -/
def State.setFlagged (s : State) (x : Reg) (result : Byte) (c : Bool) : State :=
  s.setFlaggedBy Config.vfDestPolicy x result c

end Sys2Proof.Machine
end

