-- ==== Sys2Proof/Machine/Alu.lean ====
section
/-! DEFINITION. Register arithmetic and logic (42_alu.md): operands are read on entry (R141), results wrap
modulo 256 (R140), the flag is written last (R142). -/

namespace Sys2Proof.Machine

/-- `LD Vx, kk` (R143). -/
def execLdVxKk (x : Reg) (kk : Byte) (s : State) : Result := .next (s.setReg x kk).next

/-- `ADD Vx, kk` (R144): no flag. -/
def execAddVxKk (x : Reg) (kk : Byte) (s : State) : Result := .next (s.setReg x (s.reg x + kk)).next

/-- `LD Vx, Vy` (R145). -/
def execLdVxVy (x y : Reg) (s : State) : Result := .next (s.setReg x (s.reg y)).next

/-- `OR Vx, Vy` (R146). -/
def execOrVxVy (x y : Reg) (s : State) : Result := .next (s.setReg x (s.reg x ||| s.reg y)).next

/-- `AND Vx, Vy` (R147). -/
def execAndVxVy (x y : Reg) (s : State) : Result := .next (s.setReg x (s.reg x &&& s.reg y)).next

/-- `XOR Vx, Vy` (R148). -/
def execXorVxVy (x y : Reg) (s : State) : Result := .next (s.setReg x (s.reg x ^^^ s.reg y)).next

/-- `ADD Vx, Vy` (R149). -/
def execAddVxVy (x y : Reg) (s : State) : Result :=
  .next (s.setFlagged x (s.reg x + s.reg y) (carries (s.reg x) (s.reg y))).next

/-- `SUB Vx, Vy` (R150). -/
def execSubVxVy (x y : Reg) (s : State) : Result :=
  .next (s.setFlagged x (s.reg x - s.reg y) (exceeds (s.reg x) (s.reg y))).next

/-- `SHR Vx` (R151). -/
def execShrVx (x : Reg) (s : State) : Result :=
  .next (s.setFlagged x (s.reg x >>> 1) (lowBit (s.reg x))).next

/-- `SUBN Vx, Vy` (R152). -/
def execSubnVxVy (x y : Reg) (s : State) : Result :=
  .next (s.setFlagged x (s.reg y - s.reg x) (exceeds (s.reg y) (s.reg x))).next

/-- `SHL Vx` (R153). -/
def execShlVx (x : Reg) (s : State) : Result :=
  .next (s.setFlagged x (s.reg x <<< 1) (topBit (s.reg x))).next

/-- `RND Vx, kk` (R154): one random byte. -/
def execRndVxKk (x : Reg) (kk : Byte) (s : State) : Result :=
  .next (s.askRandom.setReg x (s.inputs.nextRandomByte &&& kk)).next

end Sys2Proof.Machine
end

