-- ==== Sys2Proof/Machine/Control.lean ====
section
/-! DEFINITION. Control transfer (40_control.md). Each meaning runs with PC at its own instruction (R83). -/

namespace Sys2Proof.Machine

/-- `RET` (R100). -/
def execRet (s : State) : Result :=
  match s.pop? with
  | some (target, t) => .next (t.jump target)
  | none => raiseFault s .stackUnderflow (encode .ret) 0

/-- `JP nnn` (R101). -/
def execJpAddr (nnn : Addr) (s : State) : Result := .next (s.jump (addrWord nnn))

/-- `CALL nnn` (R102). -/
def execCallAddr (nnn : Addr) (s : State) : Result :=
  match s.push? (s.pc + 2) with
  | some t => .next (t.jump (addrWord nnn))
  | none => raiseFault s .stackOverflow (encode (.callAddr nnn)) 0

/-- `JP V0, nnn` (R103). -/
def execJpV0Addr (nnn : Addr) (s : State) : Result :=
  .next (s.jump (addrWord nnn + byteWord (s.reg 0)))

end Sys2Proof.Machine
end

