-- ==== Sys2Proof/Machine/Display.lean ====
section
/-! DEFINITION. Display instructions (44_display.md). -/

namespace Sys2Proof.Machine

/-- `CLS` (R190): exactly one `PortClear` call. -/
def execCls (s : State) : Result := .next { s with port := s.port.clear }.next

/-- The draw of a list of pixels with VF set to whether any collided (R191). -/
def State.drawSprite (s : State) (rs : List (PixelRequest Config.displayW Config.displayH)) : State :=
  let (p, c) := s.port.drawAll rs
  { s with port := p }.setReg vf (flagByte c)

/-- `DRW Vx, Vy, n` (R191): coordinates are latched before VF is written. -/
def execDrwVxVyN (x y : Reg) (n : Count) (s : State) : Result :=
  checkedAccess (.drwVxVyN x y n) n.val s
    (s.drawSprite (spriteRequests Config.displayW Config.displayH s.mem s.i.toNat n.val (s.reg x) (s.reg y))).next

end Sys2Proof.Machine
end

