-- ==== Sys2Proof/Machine/IndexMemory.lean ====
section
/-! DEFINITION. The index register and memory transfers (43_index_memory.md): every byte is checked before
the first is touched (20_memory.md R55). -/

namespace Sys2Proof.Machine

/-- `LD I, nnn` (R171). -/
def execLdIAddr (nnn : Addr) (s : State) : Result := .next { s with i := addrWord nnn }.next

/-- `ADD I, Vx` (R172). -/
def execAddIVx (x : Reg) (s : State) : Result := .next { s with i := s.i + byteWord (s.reg x) }.next

/-- `LD F, Vx` (R173). -/
def execLdFVx (x : Reg) (s : State) : Result := .next { s with i := glyphAddress (s.reg x) }.next

/-- `LD B, Vx` (R174). -/
def execLdBVx (x : Reg) (s : State) : Result :=
  checkedAccess (.ldBVx x) 3 s
    { s with mem := s.mem.writeBytes s.i.toNat (bcdDigits (s.reg x)) }.next

/-- `LD [I], Vx` (R175). -/
def execLdIVx (x : Reg) (s : State) : Result :=
  checkedAccess (.ldIVx x) (blockCount Config.blockInclusive x) s
    { s with mem := s.mem.writeBytes s.i.toNat (s.block (blockCount Config.blockInclusive x)) }.next

/-- `LD Vx, [I]` (R176). -/
def execLdVxI (x : Reg) (s : State) : Result :=
  checkedAccess (.ldVxI x) (blockCount Config.blockInclusive x) s
    (s.loadBlock s.i.toNat (blockCount Config.blockInclusive x)).next

end Sys2Proof.Machine
end

