-- ==== Sys2Proof/Machine/Skip.lean ====
section
/-! DEFINITION. Conditional skips (41_skip.md): no effect but the choice of the next PC (R126). -/

namespace Sys2Proof.Machine

/-- `SE Vx, kk` (R120). -/
def execSeVxKk (x : Reg) (kk : Byte) (s : State) : Result := .next (s.skipIf (s.reg x == kk))

/-- `SNE Vx, kk` (R121). -/
def execSneVxKk (x : Reg) (kk : Byte) (s : State) : Result := .next (s.skipIf (s.reg x != kk))

/-- `SE Vx, Vy` (R122). -/
def execSeVxVy (x y : Reg) (s : State) : Result := .next (s.skipIf (s.reg x == s.reg y))

/-- `SNE Vx, Vy` (R123). -/
def execSneVxVy (x y : Reg) (s : State) : Result := .next (s.skipIf (s.reg x != s.reg y))

/-- `SKP Vx` (R124): one `PortKeys` call. -/
def execSkpVx (x : Reg) (s : State) : Result :=
  .next (s.askKeys.skipIf (keyHeld s.inputs.nextKeyMask (s.reg x)))

/-- `SKNP Vx` (R125): one `PortKeys` call. -/
def execSknpVx (x : Reg) (s : State) : Result :=
  .next (s.askKeys.skipIf (!keyHeld s.inputs.nextKeyMask (s.reg x)))

end Sys2Proof.Machine
end

