-- ==== Sys2Proof/Machine/TimerKey.lean ====
section
/-! DEFINITION. Timer and key-wait instructions (45_timer_key.md). -/

namespace Sys2Proof.Machine

/-- `LD Vx, DT` (R210). -/
def execLdVxDt (x : Reg) (s : State) : Result := .next (s.setReg x s.dt).next

/-- What `LD Vx, K` does with the answer of its one `PortWaitKey` call: the key and "next", or PC stays. -/
def State.takeKey (s : State) (x : Reg) : Option Key → State
  | some k => (s.setReg x (BitVec.ofNat 8 k.val)).next
  | none => s

/-- `LD Vx, K` (R211). -/
def execLdVxK (x : Reg) (s : State) : Result := .next (s.askWaitKey.takeKey x s.inputs.nextKeyPress)

/-- `LD DT, Vx` (R212). -/
def execLdDtVx (x : Reg) (s : State) : Result := .next { s with dt := s.reg x }.next

/-- `LD ST, Vx` (R213). -/
def execLdStVx (x : Reg) (s : State) : Result := .next { s with st := s.reg x }.next

end Sys2Proof.Machine
end

