-- ==== Sys2Proof/Machine/Commands.lean ====
section
/-! DEFINITION. The host commands STEP, TICK and LOAD (60_exceptions.md R248) and the host's schedule. -/

namespace Sys2Proof.Machine

/-- Whether a fetch from this PC is a `MisalignedPC` fault under a policy (R30, R83). -/
def misaligned (p : Config.OddPcPolicy) (pc : Word) : Bool := pc.getLsbD 0 && p == .fault

/-- `STEP` (R83, R238, R239): fetch checks, decode, execute. -/
def State.stepCommand (s : State) : Result :=
  if s.faulted then .next s
  else if misaligned Config.oddPcPolicy s.pc then raiseFault s .misalignedPc 0 0
  else
    match outOfRange s.pc.toNat 2 with
    | some a => raiseFault s .memoryOutOfBounds 0 a
    | none =>
      match decode (s.mem.readWord s.pc.toNat) with
      | .ok i => exec i s
      | .error _ => raiseFault s .unknownOpcode (s.mem.readWord s.pc.toNat) 0

/-- One timer at a `TICK` (R245): toward zero, never below. -/
def tickTimer (t : Byte) : Byte := if t = 0 then 0 else t - 1

/-- `TICK` (R245); nothing while FAULTED (R239). -/
def State.tick (s : State) : State :=
  if s.faulted then s else { s with dt := tickTimer s.dt, st := tickTimer s.st }

/-- The big-endian words of a ROM (R271); a last odd byte is padded or dropped. -/
def romWords (p : Config.OddRomPolicy) : List Byte → List Word
  | hi :: lo :: rest => joinBytes hi lo :: romWords p rest
  | [hi] =>
    match p with
    | .pad => [joinBytes hi 0]
    | .drop => []
  | [] => []

/-- The bytes of words as `LOAD` writes them, high byte first (R270). -/
def wordBytes : List Word → List Byte
  | [] => []
  | w :: ws => highByte w :: lowByte w :: wordBytes ws

/-- Memory as `LOAD` leaves it before the ROM: 0, and a font table copied to `FONT_BASE` (R40, R270). An unlisted
address reads as the default table, so another table's bytes are listed where they differ. -/
def fontImage (font : Config.FontTable) : Memory := Memory.writeBytes [] Config.fontBase font.toList

/-- The core as `LOAD` resets it under a font table; the port and the inputs are not touched (R270, R275). -/
def State.resetCore (font : Config.FontTable) (s : State) : State :=
  { State.reset with mem := fontImage font, port := s.port, inputs := s.inputs }

/-- `LOAD(rom)` under a font table (R40, R270); a ROM that does not fit leaves the reset core FAULTED and writes no ROM
byte (R272). Power-on under a table is `LOAD` of the empty ROM under it (R273). -/
def State.load (font : Config.FontTable) (s : State) (rom : List Byte) : State :=
  let bytes := wordBytes (romWords Config.oddRomPolicy rom)
  if Config.maxRom < bytes.length then
    (s.resetCore font).raise .memoryOutOfBounds 0 (BitVec.ofNat 16 Config.memSize)
  else { s.resetCore font with mem := (fontImage font).writeBytes Config.progBase.toNat bytes }

/-- The state after the environment's next host action was taken from its list. -/
def State.dropAction (s : State) : State :=
  { s with inputs := { s.inputs with actions := s.inputs.actions.tail } }

/-- The host's next action: the first decided one, else STEP (log 2). -/
def State.nextAction (s : State) : HostAction := s.inputs.actions.headD .step

/-- A host action (R248) on a core with a font table; an overlapped command has no defined effect (R249, D36;
log 3). -/
def runAction (font : Config.FontTable) (a : HostAction) (s : State) : Result :=
  match a with
  | .load rom => .next (s.load font rom)
  | .step => s.stepCommand
  | .tick => .next s.tick
  | .overlapped => .refused .overlappedCommand

/-- What the core answers a command with (R248). -/
inductive Reply where
  | ok
  | fault (code : FaultCode)
  deriving DecidableEq, Repr

/-- The reply to an action, from the state it left (R248; log 18): none for an overlapped command. -/
def reply (a : HostAction) (after : State) : Option Reply :=
  match a with
  | .load _ | .step => some (if after.faulted then .fault after.fault.code else .ok)
  | .tick => some .ok
  | .overlapped => none

/-- Whether a fetch from this PC succeeds (R83). -/
def fetchable (pc : Word) : Bool :=
  !misaligned Config.oddPcPolicy pc && (outOfRange pc.toNat 2).isNone

/-- The bytes of an instruction word stored where the next fetch reads, with all that the next fetch needs: the
next action is STEP, the core is not FAULTED and PC can be fetched from (log 11). -/
def State.placeWord (s : State) (w : Word) : State :=
  let pc := if fetchable s.pc then s.pc else Config.progBase
  { s with
    mem := s.mem.writeBytes pc.toNat [highByte w, lowByte w]
    pc := pc
    fault := if s.faulted then FaultLatch.clear else s.fault
    inputs := { s.inputs with actions := [] } }

end Sys2Proof.Machine
end

