-- ==== Sys2Proof/Machine/Step.lean ====
section
/-! DEFINITION. One step of the machine: the host's next action on the core. -/

namespace Sys2Proof.Machine

/-- One step: the next host action, STEP where none is decided (60_exceptions.md R248, R249; log 2), on the core with
the default font table (10_state.md R40). -/
def step (s : State) : Host.Outcome State Fault Refusal :=
  runAction Config.fontBytes s.nextAction s.dropAction

/-- `s` with the instruction of `nbits` bits numbered `w` placed where the next fetch reads (log 11). -/
def State.withFetchWord (s : State) (nbits w : Nat) : State :=
  s.placeWord (BitVec.ofNat 16 (w % 2 ^ nbits))

end Sys2Proof.Machine
end

