-- ==== Sys2Proof/Safety.lean ====
section
/-! DEFINITION. What a run may be trusted to keep: the invariant of the reachable states, and a safe run. -/

namespace Sys2Proof.Machine

/-- The latch records of 60_exceptions.md R231 and 10_state.md R37: clear when not FAULTED, `addr` 0 but for
`MemoryOutOfBounds`, `opcode` 0 and an odd `pc` for `MisalignedPC`. -/
def FaultLatch.consistent (f : FaultLatch) : Bool :=
  match f.code with
  | .none => f.pc == 0 && f.opcode == 0 && f.addr == 0
  | .unknownOpcode | .stackOverflow | .stackUnderflow => f.addr == 0
  | .memoryOutOfBounds => Config.memSize ≤ f.addr.toNat
  | .misalignedPc => f.opcode == 0 && f.addr == 0 && f.pc.getLsbD 0

/-- The invariant: memory in canonical form; PC at most 0x10FE (R31); every stack slot even and at most 0x1000
(R30, R31); the latch as R231 records it. -/
structure CoreInv (s : State) : Prop where
  mem : s.mem.wf = true
  pc : s.pc.toNat ≤ 0x10FE
  slots : ∀ j : Fin 16, s.stack[j].toNat % 2 = 0 ∧ s.stack[j].toNat ≤ 0x1000
  latch : s.fault.consistent = true

/-- A run of `k` steps that ends in a next state and never leaves the core FAULTED (R230). -/
def SafeRun (k : Nat) (s : State) : Prop :=
  ∀ j ≤ k, ∃ t : State, core.run j s = .next t ∧ t.faulted = false

end Sys2Proof.Machine
end

