-- ==== Sys2Proof/Certificates/Slice0/Obligations.lean ====
section
/-! DEFINITION. The statements for the provers, one for each entry of OBLIGATIONS.json. An equation
`t = { s with … }` is the frame: every field that it does not name, memory included, is as in `s`. -/

open Sys2Proof Sys2Proof.Machine

/-! ### Reset, LOAD and TICK -/

/-- 70_reset_and_hazards.md R273: power-on is `LOAD` of the empty ROM, with the values listed there, and a `STEP` on
it faults `UnknownOpcode`. That the step of the reset state is a STEP is the model's choice for an empty list of host
actions (log 2); the font table is the default one (10_state.md R40; log 13). -/
def Obligations.PowerOnStateIsLoadOfEmptyRom : Prop :=
  State.reset.load Config.fontBytes [] = State.reset ∧
  (∀ a < 4096, (a < 80 → Config.fontBytes[a]? = some (State.reset.mem.read a)) ∧
    (80 ≤ a → State.reset.mem.read a = 0)) ∧
  (∀ r : Reg, State.reset.v[r] = 0) ∧ State.reset.i = 0 ∧ State.reset.pc = 0x200 ∧
  State.reset.sp = -1 ∧ (∀ j : Fin 16, State.reset.stack[j] = 0) ∧
  State.reset.dt = 0 ∧ State.reset.st = 0 ∧ State.reset.faulted = false ∧
  step State.reset = .next { State.reset with fault := ⟨.unknownOpcode, 0x200, 0x0000, 0x0000⟩ }

/-- 70_reset_and_hazards.md R270, R271: the state after `LOAD` of a ROM that fits, whatever the state before: the
ROM bytes from 0x200 (a missing last low byte and all other bytes as before any ROM), registers reset, not FAULTED. -/
def Obligations.LoadPlacesRomAndResets : Prop :=
  ∀ (s : State) (rom : List Byte) (rest : List HostAction),
    s.inputs.actions = .load rom :: rest → rom.length ≤ 3584 →
    ∃ t, step s = .next t ∧
      (∀ k, (h : k < rom.length) → t.mem.read (0x200 + k) = rom[k]) ∧
      (∀ a < 4096, a < 0x200 ∨ 0x200 + rom.length ≤ a →
        (a < 80 → Config.fontBytes[a]? = some (t.mem.read a)) ∧ (80 ≤ a → t.mem.read a = 0)) ∧
      t.mem.wf = true ∧
      t = { State.reset with
            mem := t.mem, port := s.port, inputs := { s.inputs with actions := rest } }

/-- 70_reset_and_hazards.md R272: a ROM longer than the program area. -/
def Obligations.LoadOfTooLongRomFaults : Prop :=
  ∀ (s : State) (rom : List Byte) (rest : List HostAction),
    s.inputs.actions = .load rom :: rest → 3584 < rom.length →
    ∃ t, step s = .next t ∧ reply (.load rom) t = some (.fault .memoryOutOfBounds) ∧
      t = { State.reset with
            fault := ⟨.memoryOutOfBounds, 0x200, 0x0000, 0x1000⟩
            port := s.port, inputs := { s.inputs with actions := rest } }

/-- 60_exceptions.md R245 with R239: `TICK` moves both timers toward zero, and does nothing while FAULTED. -/
def Obligations.TickMovesTimersTowardZero : Prop :=
  ∀ (s : State) (rest : List HostAction), s.inputs.actions = .tick :: rest →
    ∃ t, step s = .next t ∧
      t = { s with dt := t.dt, st := t.st, inputs := { s.inputs with actions := rest } } ∧
      t.dt.toNat = (if s.faulted then s.dt.toNat else s.dt.toNat - 1) ∧
      t.st.toNat = (if s.faulted then s.st.toNat else s.st.toNat - 1)

/-! ### The step -/

/-- C9 and 60_exceptions.md R249: every step but an overlapped command answers a next state, and that one is
refused. Whether a step is STEP, TICK or LOAD is read from the model's own action list (log 2). -/
def Obligations.StepIsTotal : Prop :=
  ∀ s : State,
    (s.nextAction ≠ .overlapped → ∃ t, step s = .next t) ∧
    (s.nextAction = .overlapped → step s = .refused .overlappedCommand)

/-- 30_encoding.md R83: a STEP of a core that is not FAULTED, at an even PC inside memory, whose two bytes decode,
is the instruction's effect. What step adds is taking the action off the model's list (log 2). -/
def Obligations.StepRunsDecodedInstruction : Prop :=
  ∀ (s : State) (i : Instr), s.nextAction = .step → s.faulted = false →
    s.pc.toNat % 2 = 0 → s.pc.toNat + 1 ≤ 0xFFF →
    decodeBytes [s.mem.read s.pc.toNat, s.mem.read (s.pc.toNat + 1)] = .ok (i, []) → i.wf = true →
    step s = exec i s.dropAction

/-- 30_encoding.md R83 and 60_exceptions.md R238: the faults of fetch and decode, in their order, with what the latch
records; nothing but the latch changes. -/
def Obligations.FetchAndDecodeFaultsInOrder : Prop :=
  ∀ s : State, s.nextAction = .step → s.faulted = false →
    if s.pc.toNat % 2 = 1 then
      step s = .next { s.dropAction with fault := ⟨.misalignedPc, s.pc, 0, 0⟩ }
    else if 0xFFF < s.pc.toNat + 1 then
      step s = .next { s.dropAction with
        fault := ⟨.memoryOutOfBounds, s.pc, 0, BitVec.ofNat 16 (max s.pc.toNat 0x1000)⟩ }
    else
      ∀ op : Word,
        op.toNat = (s.mem.read s.pc.toNat).toNat * 256 + (s.mem.read (s.pc.toNat + 1)).toNat →
        decode op = .error (.unknownOpcode op) →
        step s = .next { s.dropAction with fault := ⟨.unknownOpcode, s.pc, op, 0⟩ }

/-- 60_exceptions.md R236: a STEP that faults changes the latch and nothing else, and records P. The action is taken off
the model's list (log 2). -/
def Obligations.FaultsArePrecise : Prop :=
  ∀ s t : State, s.nextAction = .step → s.faulted = false → step s = .next t → t.faulted = true →
    t = { s.dropAction with fault := t.fault } ∧ t.fault.pc = s.pc

/-- 60_exceptions.md R239: while FAULTED, `STEP` and `TICK` change nothing (but the model's list of actions, log 2), and
`STEP` replies the latched fault. -/
def Obligations.FaultedCoreIsFrozen : Prop :=
  ∀ s : State, s.faulted = true → s.nextAction = .step ∨ s.nextAction = .tick →
    step s = .next s.dropAction ∧ reply .step s.dropAction = some (.fault s.fault.code)

/-- 60_exceptions.md R240: the only action that leaves FAULTED is `LOAD`. -/
def Obligations.OnlyLoadLeavesFaulted : Prop :=
  ∀ s t : State, s.faulted = true → step s = .next t → t.fault ≠ s.fault →
    ∃ rom, s.nextAction = .load rom

/-- The invariant (canonical memory; 10_state.md R31 on PC and slots, R30 on slots; the latch of R37, R231) holds at
reset. -/
def Obligations.ResetMeetsInvariant : Prop := CoreInv State.reset

/-- Every step keeps the invariant. -/
def Obligations.StepKeepsInvariant : Prop :=
  ∀ s t : State, CoreInv s → step s = .next t → CoreInv t

/-- A word placed by `withFetchWord` is the next instruction to run, from every state (the model's own loader,
log 11). -/
def Obligations.PlacedWordRunsNext : Prop :=
  ∀ (s : State) (w : Nat) (i : Instr), s.mem.wf = true → decodeTableWord 16 w = some i →
    step (s.withFetchWord 16 w) = exec i (s.withFetchWord 16 w)

/-! ### Decoding -/

/-- Words written out from 30_encoding.md R78 and R79: at least one of each class nibble and of each family, and one
illegal word (R81). -/
def Obligations.SpecWordsDecode : Prop :=
  decode 0b0000000011100000 = .ok .cls ∧
  decode 0b0000000011101110 = .ok .ret ∧
  decode 0b0001101010111100 = .ok (.jpAddr 0xABC) ∧
  decode 0b0010001100000000 = .ok (.callAddr 0x300) ∧
  decode 0b0011101000000101 = .ok (.seVxKk 0xA 0x05) ∧
  decode 0b0100000110000010 = .ok (.sneVxKk 1 0x82) ∧
  decode 0b0101000100100000 = .ok (.seVxVy 1 2) ∧
  decode 0b0110101000000101 = .ok (.ldVxKk 0xA 0x05) ∧
  decode 0b0111000111111111 = .ok (.addVxKk 1 0xFF) ∧
  decode 0b1000001000110101 = .ok (.subVxVy 2 3) ∧
  decode 0b1001000100100000 = .ok (.sneVxVy 1 2) ∧
  decode 0b1010000001010000 = .ok (.ldIAddr 0x050) ∧
  decode 0b1011001100000000 = .ok (.jpV0Addr 0x300) ∧
  decode 0b1100001100001111 = .ok (.rndVxKk 3 0x0F) ∧
  decode 0b1101111100010101 = .ok (.drwVxVyN 0xF 1 5) ∧
  decode 0b1110010110011110 = .ok (.skpVx 5) ∧
  decode 0b1111010100000111 = .ok (.ldVxDt 5) ∧
  decode 0b1111001100001010 = .ok (.ldVxK 3) ∧
  decode 0b1111000100010101 = .ok (.ldDtVx 1) ∧
  decode 0b1111000100011000 = .ok (.ldStVx 1) ∧
  decode 0b1111000001010101 = .ok (.ldIVx 0) ∧
  decode 0x0123 = .error (.unknownOpcode 0x0123)

/-- 30_encoding.md R78: every instruction decodes from its own bytes, with every operand at every value. -/
def Obligations.DecodeOfEncodeIsIdentity : Prop :=
  ∀ (i : Instr) (rest : List Byte), i.wf = true →
    decode (encode i) = .ok i ∧ decodeBytes (encodeBytes i ++ rest) = .ok (i, rest)

/-- 30_encoding.md R75: no opcode matches two rows, so the order of the rows does not change the result. -/
def Obligations.NoOpcodeMatchesTwoRows : Prop :=
  (∀ (op : Word) (r q : Row), r ∈ table → q ∈ table →
    op &&& r.mask = r.value → op &&& q.mask = q.value → r = q) ∧
  (∀ (op : Word) (rows : List Row), rows.Perm table →
    rows.find? (fun r => r.accepts op) = table.find? (fun r => r.accepts op))

/-- 30_encoding.md R81: the illegal opcodes are exactly those of its table. -/
def Obligations.IllegalOpcodesAreThoseListed : Prop :=
  ∀ op : Word,
    decode op = .error (.unknownOpcode op) ↔
      let c := op.toNat / 4096
      let n := op.toNat % 16
      let nn := op.toNat % 256
      c = 0 ∧ op ≠ 0x00E0 ∧ op ≠ 0x00EE ∨
      c = 5 ∧ n ≠ 0 ∨
      c = 8 ∧ (n = 8 ∨ n = 9 ∨ n = 10 ∨ n = 11 ∨ n = 12 ∨ n = 13 ∨ n = 15) ∨
      c = 9 ∧ n ≠ 0 ∨
      c = 14 ∧ nn ≠ 0x9E ∧ nn ≠ 0xA1 ∨
      c = 15 ∧ nn ∉ [0x07, 0x0A, 0x15, 0x18, 0x1E, 0x29, 0x33, 0x55, 0x65]

/-- 30_encoding.md R72, R74: the operands of a decoded opcode are its masked and shifted fields. -/
def Obligations.DecodedOperandsAreTheFields : Prop :=
  ∀ (op : Word) (i : Instr), decode op = .ok i →
    let x := ((op &&& 0x0F00) >>> 8).toNat
    let y := ((op &&& 0x00F0) >>> 4).toNat
    let n := (op &&& 0x000F).toNat
    let kk := (op &&& 0x00FF).toNat
    let nnn := (op &&& 0x0FFF).toNat
    i.term.operands =
      match i.term.id.operands with
      | [.addr] => [nnn]
      | [.reg] => [x]
      | [.reg, .byte] => [x, kk]
      | [.reg, .reg] => [x, y]
      | [.reg, .reg, .count] => [x, y, n]
      | _ => []

/-- 30_encoding.md R80: bits 7:4 of 8xy6 and 8xyE are ignored, and no other row has a don't-care bit. -/
def Obligations.OnlyShiftsIgnoreBits : Prop :=
  (∀ x y : Reg, decode (0x8#4 ++ BitVec.ofFin (w := 4) x ++ BitVec.ofFin (w := 4) y ++ 0x6#4) = .ok (.shrVx x) ∧
    decode (0x8#4 ++ BitVec.ofFin (w := 4) x ++ BitVec.ofFin (w := 4) y ++ 0xE#4) = .ok (.shlVx x)) ∧
  (∀ (op : Word) (i : Instr), decode op = .ok i →
    (∀ x, i ≠ .shrVx x) → (∀ x, i ≠ .shlVx x) → op = encode i)

/-! ### Memory -/

/-- 20_memory.md R59, R58: a read gives the latest write to its address, every other address is as before, and the
canonical form is kept (log 8). -/
def Obligations.MemoryReadsLatestWrite : Prop :=
  ∀ (m : Memory) (a : Nat) (b : Byte), m.wf = true → a < 4096 →
    (m.write a b).wf = true ∧ (m.write a b).read a = b ∧
    ∀ a', a' ≠ a → (m.write a b).read a' = m.read a'

/-- Memories in canonical form that hold the same 4096 bytes are equal data (the model's representation, log 8). -/
def Obligations.EqualMemoriesAreEqualData : Prop :=
  ∀ m m' : Memory, m.wf = true → m'.wf = true → (∀ a < 4096, m.read a = m'.read a) → m = m'

/-- 20_memory.md R61: bytes stored by `LD_I_VX` are what a later fetch of their address reads. -/
def Obligations.FetchSeesStoredBlock : Prop :=
  ∀ (x : Reg) (s : State) (a : Nat), s.mem.wf = true → s.i.toNat + x.val ≤ 4096 →
    s.i.toNat ≤ a → (h : a + 1 < s.i.toNat + x.val) →
    ∃ t, exec (.ldIVx x) s = .next t ∧
      (t.mem.readWord a).toNat =
        (s.v[a - s.i.toNat]'(by omega)).toNat * 256 + (s.v[a + 1 - s.i.toNat]'(by omega)).toNat

/-! ### Control transfer -/

/-- 40_control.md R101, R103: jumps write PC, without wrap, and nothing else. -/
def Obligations.JumpsWriteOnlyPc : Prop :=
  ∀ (nnn : Addr) (s : State),
    (∃ t, exec (.jpAddr nnn) s = .next t ∧ t = { s with pc := t.pc } ∧ t.pc.toNat = nnn.toNat) ∧
    (∃ t, exec (.jpV0Addr nnn) s = .next t ∧ t = { s with pc := t.pc } ∧
      t.pc.toNat = nnn.toNat + s.v[0].toNat)

/-- 40_control.md R102: `CALL` pushes P + 2 and jumps; with SP = 15 it faults. -/
def Obligations.CallPushesOrOverflows : Prop :=
  ∀ (nnn : Addr) (s : State),
    (s.sp < 15 → ∃ t, exec (.callAddr nnn) s = .next t ∧
      t = { s with stack := t.stack, depth := t.depth, pc := t.pc } ∧
      t.sp = s.sp + 1 ∧ t.pc.toNat = nnn.toNat ∧
      ∀ j : Fin 16, t.stack[j] = if (j.val : Int) = t.sp then s.pc + 2 else s.stack[j]) ∧
    (s.sp = 15 → exec (.callAddr nnn) s =
      .next { s with fault := ⟨.stackOverflow, s.pc, 0x2#4 ++ nnn, 0⟩ })

/-- 40_control.md R100: `RET` pops PC and leaves the slot; with SP = −1 it faults. -/
def Obligations.RetPopsOrUnderflows : Prop :=
  ∀ s : State,
    (∀ j : Fin 16, (j.val : Int) = s.sp → ∃ t, exec .ret s = .next t ∧
      t = { s with depth := t.depth, pc := s.stack[j] } ∧ t.sp = s.sp - 1) ∧
    (s.sp = -1 → exec .ret s = .next { s with fault := ⟨.stackUnderflow, s.pc, 0x00EE, 0⟩ })

/-- 40_control.md R100 after R102: a call followed by a return resumes at P + 2 with SP as before. -/
def Obligations.ReturnUndoesCall : Prop :=
  ∀ (nnn : Addr) (s t : State), s.sp < 15 → exec (.callAddr nnn) s = .next t →
    ∃ u, exec .ret t = .next u ∧ u = { s with stack := u.stack, pc := s.pc + 2 }

/-! ### Skips -/

/-- 41_skip.md R120, R121. -/
def Obligations.SkipsOnImmediate : Prop :=
  ∀ (x : Reg) (kk : Byte) (s : State),
    (∃ t, exec (.seVxKk x kk) s = .next t ∧ t = { s with pc := t.pc } ∧
      t.pc = if s.v[x].toNat = kk.toNat then s.pc + 4 else s.pc + 2) ∧
    (∃ t, exec (.sneVxKk x kk) s = .next t ∧ t = { s with pc := t.pc } ∧
      t.pc = if s.v[x].toNat ≠ kk.toNat then s.pc + 4 else s.pc + 2)

/-- 41_skip.md R122, R123. -/
def Obligations.SkipsOnRegister : Prop :=
  ∀ (x y : Reg) (s : State),
    (∃ t, exec (.seVxVy x y) s = .next t ∧ t = { s with pc := t.pc } ∧
      t.pc = if s.v[x].toNat = s.v[y].toNat then s.pc + 4 else s.pc + 2) ∧
    (∃ t, exec (.sneVxVy x y) s = .next t ∧ t = { s with pc := t.pc } ∧
      t.pc = if s.v[x].toNat ≠ s.v[y].toNat then s.pc + 4 else s.pc + 2)

/-- 41_skip.md R124, R125 with 60_exceptions.md R253: one `PortKeys` call whose answer `m` is the input's, any mask;
Vx ≥ 16 is never held. Where the answer comes from and the record of the call are the model's (logs 4 and 6). -/
def Obligations.KeySkipsTestOneMask : Prop :=
  ∀ (x : Reg) (s : State) (m : Word), s.inputs.nextKeyMask = m →
    let held := s.v[x].toNat < 16 ∧ m.toNat / 2 ^ s.v[x].toNat % 2 = 1
    (∃ t, exec (.skpVx x) s = .next t ∧
      t = { s with pc := t.pc, inputs := t.inputs,
                   port := { s.port with calls := s.port.calls ++ [.keys m] } } ∧
      t.inputs = { s.inputs with keyMasks := s.inputs.keyMasks.tail, draws := s.inputs.draws + 1 } ∧
      (held → t.pc = s.pc + 4) ∧ (¬held → t.pc = s.pc + 2)) ∧
    (∃ t, exec (.sknpVx x) s = .next t ∧
      t = { s with pc := t.pc, inputs := t.inputs,
                   port := { s.port with calls := s.port.calls ++ [.keys m] } } ∧
      t.inputs = { s.inputs with keyMasks := s.inputs.keyMasks.tail, draws := s.inputs.draws + 1 } ∧
      (held → t.pc = s.pc + 2) ∧ (¬held → t.pc = s.pc + 4))

/-! ### Register arithmetic and logic -/

/-- 42_alu.md R143, R145: loads write Vx and nothing else. -/
def Obligations.RegisterLoads : Prop :=
  ∀ (x y : Reg) (kk : Byte) (s : State),
    (∃ t, exec (.ldVxKk x kk) s = .next t ∧ t = { s with v := t.v, pc := s.pc + 2 } ∧
      ∀ r : Reg, t.v[r] = if r = x then kk else s.v[r]) ∧
    (∃ t, exec (.ldVxVy x y) s = .next t ∧ t = { s with v := t.v, pc := s.pc + 2 } ∧
      ∀ r : Reg, t.v[r] = if r = x then s.v[y] else s.v[r])

/-- 42_alu.md R146–R148: the bitwise operations, bit by bit; VF is written only as Vx. -/
def Obligations.BitwiseOperations : Prop :=
  ∀ (x y : Reg) (s : State),
    (∃ t, exec (.orVxVy x y) s = .next t ∧ t = { s with v := t.v, pc := s.pc + 2 } ∧
      (∀ r : Reg, r ≠ x → t.v[r] = s.v[r]) ∧
      ∀ b < 8, t.v[x].getLsbD b = (s.v[x].getLsbD b || s.v[y].getLsbD b)) ∧
    (∃ t, exec (.andVxVy x y) s = .next t ∧ t = { s with v := t.v, pc := s.pc + 2 } ∧
      (∀ r : Reg, r ≠ x → t.v[r] = s.v[r]) ∧
      ∀ b < 8, t.v[x].getLsbD b = (s.v[x].getLsbD b && s.v[y].getLsbD b)) ∧
    (∃ t, exec (.xorVxVy x y) s = .next t ∧ t = { s with v := t.v, pc := s.pc + 2 } ∧
      (∀ r : Reg, r ≠ x → t.v[r] = s.v[r]) ∧
      ∀ b < 8, t.v[x].getLsbD b = (s.v[x].getLsbD b ^^ s.v[y].getLsbD b))

/-- 42_alu.md R144: the sum wraps and VF keeps its value, unless x = 0xF. -/
def Obligations.AddImmediateWrapsWithoutFlag : Prop :=
  ∀ (x : Reg) (kk : Byte) (s : State),
    ∃ t, exec (.addVxKk x kk) s = .next t ∧ t = { s with v := t.v, pc := s.pc + 2 } ∧
      ∀ r : Reg, t.v[r].toNat = if r = x then (s.v[x].toNat + kk.toNat) % 256 else s.v[r].toNat

/-- 42_alu.md R149 with R141, R142: sum and carry from the values on entry, the carry written last. -/
def Obligations.AddSetsCarry : Prop :=
  ∀ (x y : Reg) (s : State),
    ∃ t, exec (.addVxVy x y) s = .next t ∧ t = { s with v := t.v, pc := s.pc + 2 } ∧
      ∀ r : Reg, t.v[r].toNat =
        if r = vf then (if 255 < s.v[x].toNat + s.v[y].toNat then 1 else 0)
        else if r = x then (s.v[x].toNat + s.v[y].toNat) % 256
        else s.v[r].toNat

/-- 42_alu.md R150, R152 with R141, R142: differences modulo 256, and a strict comparison in VF. -/
def Obligations.SubtractionsSetStrictFlag : Prop :=
  ∀ (x y : Reg) (s : State),
    (∃ t, exec (.subVxVy x y) s = .next t ∧ t = { s with v := t.v, pc := s.pc + 2 } ∧
      ∀ r : Reg, (t.v[r].toNat : Int) =
        if r = vf then (if s.v[x].toNat > s.v[y].toNat then 1 else 0)
        else if r = x then ((s.v[x].toNat : Int) - s.v[y].toNat) % 256
        else s.v[r].toNat) ∧
    (∃ t, exec (.subnVxVy x y) s = .next t ∧ t = { s with v := t.v, pc := s.pc + 2 } ∧
      ∀ r : Reg, (t.v[r].toNat : Int) =
        if r = vf then (if s.v[y].toNat > s.v[x].toNat then 1 else 0)
        else if r = x then ((s.v[y].toNat : Int) - s.v[x].toNat) % 256
        else s.v[r].toNat)

/-- 42_alu.md R151, R153 with R142: halving and doubling, with the bit shifted out in VF. -/
def Obligations.ShiftsMoveBitToFlag : Prop :=
  ∀ (x : Reg) (s : State),
    (∃ t, exec (.shrVx x) s = .next t ∧ t = { s with v := t.v, pc := s.pc + 2 } ∧
      ∀ r : Reg, t.v[r].toNat =
        if r = vf then s.v[x].toNat % 2 else if r = x then s.v[x].toNat / 2 else s.v[r].toNat) ∧
    (∃ t, exec (.shlVx x) s = .next t ∧ t = { s with v := t.v, pc := s.pc + 2 } ∧
      ∀ r : Reg, t.v[r].toNat =
        if r = vf then s.v[x].toNat / 128
        else if r = x then 2 * s.v[x].toNat % 256 else s.v[r].toNat)

/-- 42_alu.md R154 with 60_exceptions.md R255: one random byte `b`, any value, masked by kk. Where the byte comes from
and the record of the draw are the model's (logs 4 and 6). -/
def Obligations.RandomByteIsMasked : Prop :=
  ∀ (x : Reg) (kk : Byte) (s : State) (b : Byte), s.inputs.nextRandomByte = b →
    ∃ t, exec (.rndVxKk x kk) s = .next t ∧
      t = { s with v := t.v, pc := s.pc + 2, inputs := t.inputs,
                   port := { s.port with calls := s.port.calls ++ [.random b] } } ∧
      t.inputs = { s.inputs with
        randomBytes := s.inputs.randomBytes.tail, draws := s.inputs.draws + 1 } ∧
      ∀ r : Reg, t.v[r] = if r = x then b &&& kk else s.v[r]

/-! ### Index register and memory transfers -/

/-- 43_index_memory.md R171–R173: the three writes of I. -/
def Obligations.IndexWrites : Prop :=
  ∀ (nnn : Addr) (x : Reg) (s : State),
    (∃ t, exec (.ldIAddr nnn) s = .next t ∧ t = { s with i := t.i, pc := s.pc + 2 } ∧
      t.i.toNat = nnn.toNat) ∧
    (∃ t, exec (.addIVx x) s = .next t ∧ t = { s with i := t.i, pc := s.pc + 2 } ∧
      t.i.toNat = (s.i.toNat + s.v[x].toNat) % 65536) ∧
    (∃ t, exec (.ldFVx x) s = .next t ∧ t = { s with i := t.i, pc := s.pc + 2 } ∧
      t.i.toNat = s.v[x].toNat * 5)

/-- 43_index_memory.md R174: three decimal digits from I, or the fault with nothing written. -/
def Obligations.BcdStoresDigitsOrFaults : Prop :=
  ∀ (x : Reg) (s : State), s.mem.wf = true →
    (s.i.toNat + 2 ≤ 0xFFF → ∃ t, exec (.ldBVx x) s = .next t ∧
      t = { s with mem := t.mem, pc := s.pc + 2 } ∧
      (t.mem.read s.i.toNat).toNat = s.v[x].toNat / 100 ∧
      (t.mem.read (s.i.toNat + 1)).toNat = s.v[x].toNat / 10 % 10 ∧
      (t.mem.read (s.i.toNat + 2)).toNat = s.v[x].toNat % 10 ∧
      ∀ a, a < s.i.toNat ∨ s.i.toNat + 3 ≤ a → t.mem.read a = s.mem.read a) ∧
    (0xFFF < s.i.toNat + 2 → exec (.ldBVx x) s =
      .next { s with fault := ⟨.memoryOutOfBounds, s.pc,
        0xF#4 ++ BitVec.ofFin (w := 4) x ++ 0x33#8, BitVec.ofNat 16 (max s.i.toNat 0x1000)⟩ })

/-- 43_index_memory.md R175 with R170 (c = x): V0..V(x−1) stored from I, or the fault with nothing written. -/
def Obligations.BlockStoresOrFaults : Prop :=
  ∀ (x : Reg) (s : State), s.mem.wf = true →
    (x.val = 0 ∨ s.i.toNat + x.val - 1 ≤ 0xFFF → ∃ t, exec (.ldIVx x) s = .next t ∧
      t = { s with mem := t.mem, pc := s.pc + 2 } ∧
      (∀ r : Reg, r.val < x.val → t.mem.read (s.i.toNat + r.val) = s.v[r]) ∧
      ∀ a, a < s.i.toNat ∨ s.i.toNat + x.val ≤ a → t.mem.read a = s.mem.read a) ∧
    (0 < x.val ∧ 0xFFF < s.i.toNat + x.val - 1 → exec (.ldIVx x) s =
      .next { s with fault := ⟨.memoryOutOfBounds, s.pc,
        0xF#4 ++ BitVec.ofFin (w := 4) x ++ 0x55#8, BitVec.ofNat 16 (max s.i.toNat 0x1000)⟩ })

/-- 43_index_memory.md R176 with R170 (c = x): V0..V(x−1) loaded from I, or the fault with no register written. -/
def Obligations.BlockLoadsOrFaults : Prop :=
  ∀ (x : Reg) (s : State),
    (x.val = 0 ∨ s.i.toNat + x.val - 1 ≤ 0xFFF → ∃ t, exec (.ldVxI x) s = .next t ∧
      t = { s with v := t.v, pc := s.pc + 2 } ∧
      ∀ r : Reg, t.v[r] = if r.val < x.val then s.mem.read (s.i.toNat + r.val) else s.v[r]) ∧
    (0 < x.val ∧ 0xFFF < s.i.toNat + x.val - 1 → exec (.ldVxI x) s =
      .next { s with fault := ⟨.memoryOutOfBounds, s.pc,
        0xF#4 ++ BitVec.ofFin (w := 4) x ++ 0x65#8, BitVec.ofNat 16 (max s.i.toNat 0x1000)⟩ })

/-- 43_index_memory.md R176, 95_test_vectors.md S3: a block stored and loaded back at the same I restores
V0..V(x−1), whatever the registers held in between. -/
def Obligations.BlockRoundTrip : Prop :=
  ∀ (x : Reg) (s t u : State), s.mem.wf = true → s.faulted = false →
    exec (.ldIVx x) s = .next t → t.faulted = false → u.mem = t.mem → u.i = s.i →
    ∃ w, exec (.ldVxI x) u = .next w ∧ ∀ r : Reg, r.val < x.val → w.v[r] = s.v[r]

/-! ### Display -/

/-- 44_display.md R190 with 60_exceptions.md R251: one `PortClear` call, every pixel 0, the core otherwise unchanged.
The record of the call is the model's (log 6). -/
def Obligations.ClearScreen : Prop :=
  ∀ s : State, ∃ t, exec .cls s = .next t ∧ t = { s with port := t.port, pc := s.pc + 2 } ∧
    t.port.calls = s.port.calls ++ [.clear] ∧ ∀ px py, t.port.pixel px py = false

/-- 44_display.md R191: exactly 8 × n `PortDraw` calls in row order, MSB first, at wrapped coordinates latched from
Vx and Vy, each with its sprite bit; only VF, PC and the port change. The record of the calls is the model's
(log 6), the size 64 × 32 the spec's default (log 13). -/
def Obligations.DrawMakesCallsInOrder : Prop :=
  ∀ (x y : Reg) (n : Count) (s : State), n.val = 0 ∨ s.i.toNat + n.val - 1 ≤ 0xFFF →
    ∃ t, exec (.drwVxVyN x y n) s = .next t ∧
      t = { s with v := t.v, port := t.port, pc := s.pc + 2 } ∧
      (∀ r : Reg, r ≠ vf → t.v[r] = s.v[r]) ∧
      t.port.calls.length = s.port.calls.length + 8 * n.val ∧
      t.port.calls.take s.port.calls.length = s.port.calls ∧
      ∀ row < n.val, ∀ col < 8, ∃ px py c,
        t.port.calls[s.port.calls.length + 8 * row + col]? =
          some (.draw ((s.mem.read (s.i.toNat + row)).getLsbD (7 - col)) px py c) ∧
        px.val = (s.v[x].toNat + col) % 64 ∧ py.val = (s.v[y].toNat + row) % 32

/-- 44_display.md R191 with R252: every pixel is XORed with the sprite bit that lies on it (a sprite of at most
8 × 15 meets no pixel of 64 × 32 twice), and VF is 1 exactly when a sprite bit 1 lay on a pixel 1. -/
def Obligations.DrawXorsSpriteAndReportsCollision : Prop :=
  ∀ (x y : Reg) (n : Count) (s t : State), n.val = 0 ∨ s.i.toNat + n.val - 1 ≤ 0xFFF →
    exec (.drwVxVyN x y n) s = .next t →
    let lit := fun (px : Fin 64) (py : Fin 32) =>
      ∃ row < n.val, ∃ col < 8, (s.mem.read (s.i.toNat + row)).getLsbD (7 - col) = true ∧
        px.val = (s.v[x].toNat + col) % 64 ∧ py.val = (s.v[y].toNat + row) % 32
    (∀ px py, (lit px py → t.port.pixel px py = !s.port.pixel px py) ∧
      (¬lit px py → t.port.pixel px py = s.port.pixel px py)) ∧
    ((∃ px py, lit px py ∧ s.port.pixel px py = true) → t.v[vf] = 1) ∧
    ((¬∃ px py, lit px py ∧ s.port.pixel px py = true) → t.v[vf] = 0)

/-- 44_display.md R191 with 20_memory.md R55: sprite rows past 0xFFF fault before VF is cleared and before any port
call. -/
def Obligations.DrawPastMemoryFaults : Prop :=
  ∀ (x y : Reg) (n : Count) (s : State), 0 < n.val → 0xFFF < s.i.toNat + n.val - 1 →
    exec (.drwVxVyN x y n) s =
      .next { s with fault := ⟨.memoryOutOfBounds, s.pc,
        0xD#4 ++ BitVec.ofFin (w := 4) x ++ BitVec.ofFin (w := 4) y ++ BitVec.ofFin (w := 4) n,
        BitVec.ofNat 16 (max s.i.toNat 0x1000)⟩ }

/-- C5, 95_test_vectors.md S4: the same sprite drawn twice at the same place restores the frame buffer; over a blank
area a sprite with a 1-bit gives VF = 0, then VF = 1. The second draw runs in any state `u` with the coordinates,
sprite and port the first one left (the first may have written Vx or Vy, as VF). -/
def Obligations.DrawTwiceRestoresFrame : Prop :=
  ∀ (x y : Reg) (n : Count) (s t u w : State), n.val = 0 ∨ s.i.toNat + n.val - 1 ≤ 0xFFF →
    exec (.drwVxVyN x y n) s = .next t →
    u.v[x] = s.v[x] → u.v[y] = s.v[y] → u.mem = t.mem → u.i = t.i → u.port = t.port →
    exec (.drwVxVyN x y n) u = .next w →
    (∀ px py, w.port.pixel px py = s.port.pixel px py) ∧
    ((∀ px py, s.port.pixel px py = false) →
      (∃ row < n.val, s.mem.read (s.i.toNat + row) ≠ 0) → t.v[vf] = 0 ∧ w.v[vf] = 1)

/-! ### Timers and key wait -/

/-- 45_timer_key.md R210, R212, R213 with 10_state.md R36: the moves between Vx and the timers. -/
def Obligations.TimerMoves : Prop :=
  ∀ (x : Reg) (s : State),
    (∃ t, exec (.ldVxDt x) s = .next t ∧ t = { s with v := t.v, pc := s.pc + 2 } ∧
      ∀ r : Reg, t.v[r] = if r = x then s.dt else s.v[r]) ∧
    (∃ t, exec (.ldDtVx x) s = .next t ∧ t = { s with dt := s.v[x], pc := s.pc + 2 }) ∧
    (∃ t, exec (.ldStVx x) s = .next t ∧ t = { s with st := s.v[x], pc := s.pc + 2 } ∧
      (t.soundOn = true ↔ s.v[x] ≠ 0))

/-- 45_timer_key.md R211 with 60_exceptions.md R254: one `PortWaitKey` call; a key goes to Vx, none leaves PC and
everything else. Where the answer comes from and the record of the call are the model's (logs 4 and 6). -/
def Obligations.KeyWaitTakesKeyOrStays : Prop :=
  ∀ (x : Reg) (s : State) (answer : Option Key), s.inputs.nextKeyPress = answer →
    ∃ t, exec (.ldVxK x) s = .next t ∧
      t = { s with v := t.v, pc := t.pc, inputs := t.inputs,
                   port := { s.port with calls := s.port.calls ++ [.waitKey answer] } } ∧
      t.inputs = { s.inputs with
        keyPresses := s.inputs.keyPresses.tail, draws := s.inputs.draws + 1 } ∧
      (answer = none → t.pc = s.pc ∧ t.v = s.v) ∧
      ∀ k, answer = some k → t.pc = s.pc + 2 ∧
        ∀ r : Reg, t.v[r].toNat = if r = x then k.val else s.v[r].toNat

/-! ### Rules over all instructions -/

/-- 10_state.md R29: where PC goes, by class; a fault leaves it. -/
def Obligations.PcAdvancesByClass : Prop :=
  ∀ (i : Instr) (s t : State), s.faulted = false → exec i s = .next t →
    if t.faulted then t.pc = s.pc
    else match i with
      | .jpAddr nnn | .callAddr nnn => t.pc.toNat = nnn.toNat
      | .jpV0Addr nnn => t.pc.toNat = nnn.toNat + s.v[0].toNat
      | .ret => ∃ j : Fin 16, (j.val : Int) = s.sp ∧ t.pc = s.stack[j]
      | .seVxKk _ _ | .sneVxKk _ _ | .seVxVy _ _ | .sneVxVy _ _ | .skpVx _ | .sknpVx _ =>
        t.pc = s.pc + 2 ∨ t.pc = s.pc + 4
      | .ldVxK _ => t.pc = s.pc + 2 ∨ t.pc = s.pc
      | _ => t.pc = s.pc + 2

/-- 10_state.md R32: only `CALL_ADDR` writes a slot, and only `CALL_ADDR` and `RET` move SP. -/
def Obligations.OnlyCallAndRetTouchStack : Prop :=
  ∀ (i : Instr) (s t : State), exec i s = .next t →
    ((∀ nnn, i ≠ .callAddr nnn) → t.stack = s.stack) ∧
    ((∀ nnn, i ≠ .callAddr nnn) → i ≠ .ret → t.sp = s.sp)

/-- 10_state.md R27, R34, R35: the instructions that write I, DT and ST. -/
def Obligations.WritersOfIndexAndTimers : Prop :=
  ∀ (i : Instr) (s t : State), exec i s = .next t →
    ((∀ nnn, i ≠ .ldIAddr nnn) → (∀ x, i ≠ .addIVx x) → (∀ x, i ≠ .ldFVx x) → t.i = s.i) ∧
    ((∀ x, i ≠ .ldDtVx x) → t.dt = s.dt) ∧
    ((∀ x, i ≠ .ldStVx x) → t.st = s.st)

/-- 20_memory.md R54: only `LD_B_VX` and `LD_I_VX` write memory. -/
def Obligations.OnlyStoresWriteMemory : Prop :=
  ∀ (i : Instr) (s t : State), exec i s = .next t →
    (∀ x, i ≠ .ldBVx x) → (∀ x, i ≠ .ldIVx x) → ∀ a, t.mem.read a = s.mem.read a

/-- 10_state.md R24: an instruction that is no flag writer and whose Vx is not VF leaves VF. -/
def Obligations.OnlyFlagWritersTouchVf : Prop :=
  ∀ (i : Instr) (s t : State), exec i s = .next t → t.v[vf] ≠ s.v[vf] →
    (∃ x y, i = .addVxVy x y ∨ i = .subVxVy x y ∨ i = .subnVxVy x y) ∨
    (∃ x, i = .shrVx x ∨ i = .shlVx x) ∨ (∃ x y n, i = .drwVxVyN x y n) ∨
    (∃ kk, i = .ldVxKk vf kk ∨ i = .addVxKk vf kk ∨ i = .rndVxKk vf kk) ∨
    (∃ y, i = .ldVxVy vf y ∨ i = .orVxVy vf y ∨ i = .andVxVy vf y ∨ i = .xorVxVy vf y) ∨
    i = .ldVxDt vf ∨ i = .ldVxK vf

/-- 60_exceptions.md R256: the instructions that call the port or the random input; no other instruction, no `LOAD`,
no `TICK` and no faulting `STEP` does. -/
def Obligations.PortCallsOnlyWhereStated : Prop :=
  ∀ s t : State, step s = .next t → t.port ≠ s.port →
    s.nextAction = .step ∧ t.faulted = false ∧
    ∃ i, decode (s.mem.readWord s.pc.toNat) = .ok i ∧
      (i = .cls ∨ (∃ x y n, i = .drwVxVyN x y n) ∨ (∃ x, i = .skpVx x ∨ i = .sknpVx x) ∨
        (∃ x, i = .ldVxK x) ∨ ∃ x kk, i = .rndVxKk x kk)

/-- 10_state.md R35: no instruction reads ST: a run that differs only in ST differs only in ST after it. -/
def Obligations.NoInstructionReadsSt : Prop :=
  ∀ (i : Instr) (s t : State) (b : Byte), exec i s = .next t →
    ∃ c, exec i { s with st := b } = .next { t with st := c }

/-! ### The font table as a parameter -/

/-- 10_state.md R40, R41 with 70_reset_and_hazards.md R270, R272: `LOAD` under any font table copies that table to
0x000–0x04F and clears the rest, whatever stood in memory; a ROM that fits follows at 0x200, one that does not writes no
byte. -/
def Obligations.LoadCopiesAnyFontTable : Prop :=
  ∀ (font : Config.FontTable) (s : State) (rom : List Byte),
    ∃ t, runAction font (.load rom) s = .next t ∧ t.mem.wf = true ∧
      t = { State.reset with mem := t.mem, fault := t.fault, port := s.port, inputs := s.inputs } ∧
      (∀ a < 80, font[a]? = some (t.mem.read a)) ∧
      (∀ a < 4096, 80 ≤ a → a < 0x200 ∨ 0x200 + rom.length ≤ a ∨ 3584 < rom.length → t.mem.read a = 0) ∧
      (rom.length ≤ 3584 → t.faulted = false ∧ ∀ k, (h : k < rom.length) → t.mem.read (0x200 + k) = rom[k]) ∧
      (3584 < rom.length → t.fault = ⟨.memoryOutOfBounds, 0x200, 0x0000, 0x1000⟩)

/-- 10_state.md R40 with 43_index_memory.md R173: after `LOAD` under any font table, in any later state whose first 80
bytes are still as it left them, `LD_F_VX` of a hex digit d leaves I at its glyph, the table's five bytes from 5d. -/
def Obligations.LoadFontAddressesGlyph : Prop :=
  ∀ (font : Config.FontTable) (s t u : State) (rom : List Byte) (x : Reg),
    runAction font (.load rom) s = .next t → (∀ a < 80, u.mem.read a = t.mem.read a) → u.v[x].toNat < 16 →
    ∃ w, exec (.ldFVx x) u = .next w ∧ w = { u with i := w.i, pc := u.pc + 2 } ∧
      ∀ k < 5, font[5 * u.v[x].toNat + k]? = some (w.mem.read (w.i.toNat + k))

/-! ### The display size as a parameter -/

/-- 44_display.md R191, R192 with 60_exceptions.md R250–R252, on a display of any size: a clear makes every pixel 0; the
draws of a sprite of `n` rows are 8 × n calls in row order, MSB first, at coordinates wrapped around that display, each
answered from the pixels the calls before it left (one sprite may meet a pixel twice); they collide exactly when one call
answers 1; and each pixel is XORed with every sprite bit that falls on it. The record of the calls is the model's
(log 6). -/
def Obligations.PortOperationsOnAnyDisplaySize : Prop :=
  ∀ (w h : Nat) [NeZero w] [NeZero h] (p : Port w h) (m : Memory) (base n : Nat) (bx by_ : Byte),
    let rs := spriteRequests w h m base n bx by_
    let q := p.drawAll rs
    let bit := fun row col => (m.read (base + row)).getLsbD (7 - col)
    (p.clear.calls = p.calls ++ [.clear] ∧ ∀ px py, p.clear.pixel px py = false) ∧
    q.1.calls.length = p.calls.length + 8 * n ∧ q.1.calls.take p.calls.length = p.calls ∧
    (∀ row < n, ∀ col < 8, ∃ px py,
      px.val = (bx.toNat + col) % w ∧ py.val = (by_.toNat + row) % h ∧
      q.1.calls[p.calls.length + 8 * row + col]? = some (.draw (bit row col) px py
        ((p.drawAll (rs.take (8 * row + col))).1.pixel px py && bit row col))) ∧
    (q.2 = true ↔ ∃ k b px py, p.calls.length ≤ k ∧ q.1.calls[k]? = some (.draw b px py true)) ∧
    ∀ px py, q.1.pixel px py = (p.pixel px py ^^ decide (((List.range n).map fun row =>
      (List.range 8).countP fun col => bit row col && px.val == (bx.toNat + col) % w &&
        py.val == (by_.toNat + row) % h).sum % 2 = 1))

/-- 44_display.md R191, R192 on any display at least as wide and high as the sprite: a pixel is inverted exactly when a
sprite bit 1 lies on it, and the draws collide exactly when one lies on a pixel that was 1. -/
def Obligations.SpriteXorsOnAnyLargeEnoughDisplay : Prop :=
  ∀ (w h : Nat) [NeZero w] [NeZero h] (p : Port w h) (m : Memory) (base n : Nat) (bx by_ : Byte), 8 ≤ w → n ≤ h →
    let q := p.drawAll (spriteRequests w h m base n bx by_)
    let lit := fun (px : Fin w) (py : Fin h) =>
      ∃ row < n, ∃ col < 8, (m.read (base + row)).getLsbD (7 - col) = true ∧
        px.val = (bx.toNat + col) % w ∧ py.val = (by_.toNat + row) % h
    (∀ px py, (lit px py → q.1.pixel px py = !p.pixel px py) ∧ (¬lit px py → q.1.pixel px py = p.pixel px py)) ∧
    (q.2 = true ↔ ∃ px py, lit px py ∧ p.pixel px py = true)
end

