-- ==== Sys2Proof/Laws/Decode.lean ====
section
/-! SUPPORT. The fields of an encoded word and the masks of the table, stated once. -/

namespace Sys2Proof

theorem fieldX_wordXkk (c : BitVec 4) (x : Reg) (kk : Byte) : fieldX (wordXkk c x kk) = x := by
  have h : (wordXkk c x kk).extractLsb' 8 4 = BitVec.ofFin (w := 4) x := by
    apply BitVec.eq_of_getLsbD_eq
    intro b hb
    simp only [wordXkk, BitVec.getLsbD_extractLsb', BitVec.getLsbD_append, hb, decide_true, Bool.true_and]
    rw [if_neg (by omega), if_pos (by omega), Nat.add_sub_cancel_left]
  simp [fieldX, h]

theorem fieldKk_wordXkk (c : BitVec 4) (x : Reg) (kk : Byte) : fieldKk (wordXkk c x kk) = kk := by
  apply BitVec.eq_of_getLsbD_eq
  intro b hb
  simp only [fieldKk, wordXkk, BitVec.getLsbD_extractLsb', BitVec.getLsbD_append, hb, decide_true, Bool.true_and]
  rw [if_pos (by omega), Nat.zero_add]

theorem fieldNnn_wordNnn (c : BitVec 4) (nnn : Addr) : fieldNnn (wordNnn c nnn) = nnn := by
  apply BitVec.eq_of_getLsbD_eq
  intro b hb
  simp only [fieldNnn, wordNnn, BitVec.getLsbD_extractLsb', BitVec.getLsbD_append, hb, decide_true, Bool.true_and]
  rw [if_pos (by omega), Nat.zero_add]

theorem fieldX_wordXyn (c : BitVec 4) (x y n : Fin 16) : fieldX (wordXyn c x y n) = x := by
  have h : (wordXyn c x y n).extractLsb' 8 4 = BitVec.ofFin (w := 4) x := by
    apply BitVec.eq_of_getLsbD_eq
    intro b hb
    simp only [wordXyn, BitVec.getLsbD_extractLsb', BitVec.getLsbD_append, hb, decide_true, Bool.true_and]
    rw [if_neg (by omega), if_neg (by omega), if_pos (by omega)]
    congr 1
    omega
  simp [fieldX, h]

theorem fieldY_wordXyn (c : BitVec 4) (x y n : Fin 16) : fieldY (wordXyn c x y n) = y := by
  have h : (wordXyn c x y n).extractLsb' 4 4 = BitVec.ofFin (w := 4) y := by
    apply BitVec.eq_of_getLsbD_eq
    intro b hb
    simp only [wordXyn, BitVec.getLsbD_extractLsb', BitVec.getLsbD_append, hb, decide_true, Bool.true_and]
    rw [if_neg (by omega), if_pos (by omega), Nat.add_sub_cancel_left]
  simp [fieldY, h]

theorem fieldN_wordXyn (c : BitVec 4) (x y n : Fin 16) : fieldN (wordXyn c x y n) = n := by
  have h : (wordXyn c x y n).extractLsb' 0 4 = BitVec.ofFin (w := 4) n := by
    apply BitVec.eq_of_getLsbD_eq
    intro b hb
    simp only [wordXyn, BitVec.getLsbD_extractLsb', BitVec.getLsbD_append, hb, decide_true, Bool.true_and]
    rw [if_pos (by omega), Nat.zero_add]
  simp [fieldN, h]

/-- The class nibble, `op[15:12]` (30_encoding.md R71). -/
def opClass (op : Word) : BitVec 4 := op.extractLsb' 12 4

theorem opClass_wordNnn (c : BitVec 4) (nnn : Addr) : opClass (wordNnn c nnn) = c := by
  apply BitVec.eq_of_getLsbD_eq
  intro b hb
  simp only [opClass, wordNnn, BitVec.getLsbD_extractLsb', BitVec.getLsbD_append, hb, decide_true, Bool.true_and]
  rw [if_neg (by omega), Nat.add_sub_cancel_left]

theorem opClass_wordXkk (c : BitVec 4) (x : Reg) (kk : Byte) : opClass (wordXkk c x kk) = c := by
  apply BitVec.eq_of_getLsbD_eq
  intro b hb
  simp only [opClass, wordXkk, BitVec.getLsbD_extractLsb', BitVec.getLsbD_append, hb, decide_true, Bool.true_and]
  rw [if_neg (by omega), if_neg (by omega)]
  congr 1
  omega

theorem opClass_wordXyn (c : BitVec 4) (x y n : Fin 16) : opClass (wordXyn c x y n) = c := by
  apply BitVec.eq_of_getLsbD_eq
  intro b hb
  simp only [opClass, wordXyn, BitVec.getLsbD_extractLsb', BitVec.getLsbD_append, hb, decide_true, Bool.true_and]
  rw [if_neg (by omega), if_neg (by omega), if_neg (by omega)]
  congr 1
  omega

/-- A word is its class nibble and its other fields, in each of the formats. -/
theorem wordNnn_eta (op : Word) : wordNnn (opClass op) (fieldNnn op) = op := by
  apply BitVec.eq_of_getLsbD_eq
  intro b hb
  simp only [wordNnn, opClass, fieldNnn, BitVec.getLsbD_append, BitVec.getLsbD_extractLsb']
  split
  · simp [*]
  · have h : b - 12 < 4 := by omega
    simp [h, show 12 + (b - 12) = b by omega]

theorem wordXkk_eta (op : Word) : wordXkk (opClass op) (fieldX op) (fieldKk op) = op := by
  apply BitVec.eq_of_getLsbD_eq
  intro b hb
  simp only [wordXkk, opClass, fieldX, fieldKk, BitVec.getLsbD_append, BitVec.ofFin_toFin,
    BitVec.getLsbD_extractLsb']
  split
  · simp [*]
  · split
    · rename_i h2
      simp [h2, show 8 + (b - 8) = b by omega]
    · have h : b - 8 - 4 < 4 := by omega
      simp [h, show 12 + (b - 8 - 4) = b by omega]

theorem wordXyn_eta (op : Word) : wordXyn (opClass op) (fieldX op) (fieldY op) (fieldN op) = op := by
  apply BitVec.eq_of_getLsbD_eq
  intro b hb
  simp only [wordXyn, opClass, fieldX, fieldY, fieldN, BitVec.getLsbD_append, BitVec.ofFin_toFin,
    BitVec.getLsbD_extractLsb']
  split
  · simp [*]
  · split
    · rename_i h2
      simp [h2, show 4 + (b - 4) = b by omega]
    · split
      · rename_i h3
        simp [h3, show 8 + (b - 4 - 4) = b by omega]
      · have h : b - 4 - 4 - 4 < 4 := by omega
        simp [h, show 12 + (b - 4 - 4 - 4) = b by omega]

/-- The class mask keeps the class nibble. -/
theorem wordNnn_and_class (c : BitVec 4) (nnn : Addr) : wordNnn c nnn &&& 0xF000 = wordNnn c 0 := by
  have h : (0xF000 : Word) = (0xF#4 ++ 0#12 : BitVec 16) := by decide
  rw [wordNnn, wordNnn, h, BitVec.and_append, BitVec.and_zero]
  congr 1
  exact BitVec.and_allOnes

theorem wordXkk_and_class (c : BitVec 4) (x : Reg) (kk : Byte) :
    wordXkk c x kk &&& 0xF000 = wordXkk c 0 0 := by
  have h : (0xF000 : Word) = (0xF#4 ++ 0#4 ++ 0#8 : BitVec 16) := by decide
  rw [wordXkk, wordXkk, h, BitVec.and_append, BitVec.and_append, BitVec.and_zero, BitVec.and_zero]
  congr 2
  exact BitVec.and_allOnes

theorem wordXkk_and_function (c : BitVec 4) (x : Reg) (kk : Byte) :
    wordXkk c x kk &&& 0xF0FF = wordXkk c 0 kk := by
  have h : (0xF0FF : Word) = (0xF#4 ++ 0#4 ++ 0xFF#8 : BitVec 16) := by decide
  rw [wordXkk, wordXkk, h, BitVec.and_append, BitVec.and_append, BitVec.and_zero]
  congr 2
  · exact BitVec.and_allOnes
  · exact BitVec.and_allOnes

theorem wordXyn_and_class (c : BitVec 4) (x y n : Fin 16) :
    wordXyn c x y n &&& 0xF000 = wordXyn c 0 0 0 := by
  have h : (0xF000 : Word) = (0xF#4 ++ 0#4 ++ 0#4 ++ 0#4 : BitVec 16) := by decide
  rw [wordXyn, wordXyn, h, BitVec.and_append, BitVec.and_append, BitVec.and_append, BitVec.and_zero,
    BitVec.and_zero, BitVec.and_zero]
  congr 3
  exact BitVec.and_allOnes

theorem wordXyn_and_function (c : BitVec 4) (x y n : Fin 16) :
    wordXyn c x y n &&& 0xF00F = wordXyn c 0 0 n := by
  have h : (0xF00F : Word) = (0xF#4 ++ 0#4 ++ 0#4 ++ 0xF#4 : BitVec 16) := by decide
  rw [wordXyn, wordXyn, h, BitVec.and_append, BitVec.and_append, BitVec.and_append, BitVec.and_zero,
    BitVec.and_zero]
  congr 2
  · congr 2
    exact BitVec.and_allOnes
  · exact BitVec.and_allOnes

/-- A class row fixes the class nibble. -/
theorem opClass_of_and {op v : Word} (h : op &&& 0xF000 = v) : opClass op = opClass v := by
  rw [← wordNnn_eta op, wordNnn_and_class] at h
  rw [← h, opClass_wordNnn]

/-- A row of format xyf fixes the class nibble and the low nibble. -/
theorem function_of_and {op v : Word} (h : op &&& 0xF00F = v) :
    opClass op = opClass v ∧ fieldN op = fieldN v := by
  rw [← wordXyn_eta op, wordXyn_and_function] at h
  rw [← h, opClass_wordXyn, fieldN_wordXyn]
  exact ⟨rfl, rfl⟩

/-- A row of format xff fixes the class nibble and the low byte. -/
theorem lowByte_of_and {op v : Word} (h : op &&& 0xF0FF = v) :
    opClass op = opClass v ∧ fieldKk op = fieldKk v := by
  rw [← wordXkk_eta op, wordXkk_and_function] at h
  rw [← h, opClass_wordXkk, fieldKk_wordXkk]
  exact ⟨rfl, rfl⟩

/-- What the decoder builds from an encoded word under the instruction's own id is the instruction. -/
theorem build_encode (i : Instr) : build (encode i) i.term.id = i := by
  cases i <;> simp only [encode, Instr.term, build, fieldX_wordXkk, fieldKk_wordXkk, fieldNnn_wordNnn,
    fieldX_wordXyn, fieldY_wordXyn, fieldN_wordXyn]

/-- An instruction carries its operand ranges in its types (30_encoding.md R73). -/
theorem Instr.wf_all (i : Instr) : i.wf = true := by
  have hk : ∀ b : Byte, b.toNat < 256 := fun b => b.isLt
  have ha : ∀ a : Addr, a.toNat < 4096 := fun a => a.isLt
  cases i <;> simp [Instr.wf, Term.wellFormed, Instr.term, InstrId.operands, operandsFit,
    OperandKind.bound, hk, ha]

/-- The bytes of a word, joined, are the word. -/
theorem joinBytes_bytes (w : Word) : joinBytes (highByte w) (lowByte w) = w := by
  apply BitVec.eq_of_getLsbD_eq
  intro b hb
  simp only [joinBytes, highByte, lowByte, BitVec.getLsbD_append, BitVec.getLsbD_extractLsb']
  split
  · simp [*]
  · rename_i h
    have h8 : b - 8 < 8 := by omega
    simp [h8, show 8 + (b - 8) = b by omega]

end Sys2Proof
end

