-- ==== Sys2Proof/Laws/Memory.lean ====
section
/-! SUPPORT. The laws of memory: a read gives the latest write, every operation keeps the canonical form, and
memories of the same bytes are equal. -/

namespace Sys2Proof.Machine

theorem Memory.wfFrom_mono {lo lo' : Nat} (h : lo' ≤ lo) {m : Memory} (hm : Memory.wfFrom lo m = true) :
    Memory.wfFrom lo' m = true := by
  cases m with
  | nil => rfl
  | cons e m => simp [Memory.wfFrom] at hm ⊢; exact ⟨⟨⟨by omega, hm.1.1.2⟩, hm.1.2⟩, hm.2⟩

/-- An address below a canonical memory is unlisted. -/
theorem Memory.read_below {lo a : Nat} {m : Memory} (hm : Memory.wfFrom lo m = true) (h : a < lo) :
    Memory.read m a = initialByte a := by
  induction m generalizing lo with
  | nil => rfl
  | cons e m ih =>
    obtain ⟨k, b⟩ := e
    simp [Memory.wfFrom] at hm
    have hne : a ≠ k := by omega
    simp only [Memory.read, if_neg hne]
    exact ih hm.2 (by omega)

/-- One write: the canonical form is kept, and the reads of every address. -/
theorem Memory.write_spec {lo a : Nat} {b : Byte} {m : Memory} (hm : Memory.wfFrom lo m = true)
    (hlo : lo ≤ a) (ha : a < 4096) :
    Memory.wfFrom lo (m.write a b) = true ∧
      ∀ a', (m.write a b).read a' = if a' = a then b else m.read a' := by
  induction m generalizing lo with
  | nil =>
    simp only [Memory.write]
    split
    · refine ⟨rfl, fun a' => ?_⟩
      simp only [Memory.read]
      split <;> simp_all
    · simp_all [Memory.wfFrom, Memory.read]
  | cons e m ih =>
    obtain ⟨k, c⟩ := e
    have hm' := hm
    simp [Memory.wfFrom] at hm
    obtain ⟨⟨⟨h1, h2⟩, h3⟩, h4⟩ := hm
    simp only [Memory.write]
    split
    · rename_i hlt
      split
      · rename_i hb
        refine ⟨hm', fun a' => ?_⟩
        split
        · rename_i he
          subst he
          rw [hb]
          exact Memory.read_below (lo := k) (by simp [Memory.wfFrom, h2, h3, h4]) hlt
        · rfl
      · rename_i hb
        refine ⟨by simp [Memory.wfFrom, h2, h3, h4, hlo, ha, hb]; omega, fun a' => ?_⟩
        simp only [Memory.read]
    · split
      · rename_i hlt hak
        subst hak
        split
        · rename_i hb
          refine ⟨Memory.wfFrom_mono (by omega) h4, fun a' => ?_⟩
          simp only [Memory.read]
          split
          · rename_i he
            subst he
            rw [hb]
            exact Memory.read_below h4 (by omega)
          · rfl
        · rename_i hb
          refine ⟨by simp [Memory.wfFrom, h4, hlo, ha, hb], fun a' => ?_⟩
          simp only [Memory.read]
          split <;> rfl
      · rename_i hlt hak
        obtain ⟨hw, hr⟩ := ih h4 (by omega)
        refine ⟨by simp [Memory.wfFrom, h1, h2, h3, hw], fun a' => ?_⟩
        simp only [Memory.read, hr]
        split
        · rename_i he
          subst he
          simp [show ¬ a' = a by omega]
        · rfl

theorem Memory.write_wf {m : Memory} (hm : m.wf = true) {a : Nat} (ha : a < 4096) (b : Byte) :
    (m.write a b).wf = true := (Memory.write_spec hm (Nat.zero_le a) ha).1

theorem Memory.read_write {m : Memory} (hm : m.wf = true) {a : Nat} (ha : a < 4096) (b : Byte)
    (a' : Nat) : (m.write a b).read a' = if a' = a then b else m.read a' :=
  (Memory.write_spec hm (Nat.zero_le a) ha).2 a'

/-- The writes of consecutive bytes: the canonical form is kept, and the reads of every address. -/
theorem Memory.writeBytes_spec {m : Memory} (hm : m.wf = true) {a : Nat} {bs : List Byte}
    (h : a + bs.length ≤ 4096) :
    (m.writeBytes a bs).wf = true ∧
      ∀ a', (m.writeBytes a bs).read a' =
        if h : a ≤ a' ∧ a' - a < bs.length then bs[a' - a] else m.read a' := by
  induction bs generalizing m a with
  | nil => exact ⟨hm, fun a' => by simp [Memory.writeBytes]⟩
  | cons b bs ih =>
    simp only [List.length_cons] at h
    have ha : a < 4096 := by omega
    obtain ⟨hw, hr⟩ := ih (Memory.write_wf hm ha b) (a := a + 1) (by omega)
    refine ⟨hw, fun a' => ?_⟩
    simp only [Memory.writeBytes, hr, Memory.read_write hm ha]
    by_cases hlt : a' < a
    · rw [dif_neg (by omega), dif_neg (by omega), if_neg (by omega)]
    · by_cases he : a' = a
      · subst he
        rw [dif_neg (by omega), dif_pos (by simp), if_pos rfl]
        simp
      · by_cases hin : a' - a < bs.length + 1
        · rw [dif_pos (by omega), dif_pos (by simp only [List.length_cons]; omega)]
          have hs : a' - a = (a' - (a + 1)) + 1 := by omega
          simp only [hs, List.getElem_cons_succ]
        · rw [dif_neg (by omega), dif_neg (by simp only [List.length_cons]; omega), if_neg he]

theorem Memory.empty_wf : Memory.wf [] = true := rfl

/-- A canonical memory is determined by its bytes. -/
theorem Memory.ext_from {lo : Nat} {m m' : Memory} (hm : Memory.wfFrom lo m = true)
    (hm' : Memory.wfFrom lo m' = true) (h : ∀ a < 4096, m.read a = m'.read a) : m = m' := by
  induction m generalizing lo m' with
  | nil =>
    cases m' with
    | nil => rfl
    | cons e' t' =>
      obtain ⟨k', b'⟩ := e'
      simp [Memory.wfFrom] at hm'
      have := h k' hm'.1.1.2
      simp [Memory.read] at this
      exact absurd this.symm hm'.1.2
  | cons e t ih =>
    obtain ⟨k, b⟩ := e
    simp [Memory.wfFrom] at hm
    obtain ⟨⟨⟨h1, h2⟩, h3⟩, h4⟩ := hm
    cases m' with
    | nil =>
      have := h k h2
      simp [Memory.read] at this
      exact absurd this h3
    | cons e' t' =>
      obtain ⟨k', b'⟩ := e'
      simp [Memory.wfFrom] at hm'
      obtain ⟨⟨⟨h1', h2'⟩, h3'⟩, h4'⟩ := hm'
      have hk : k = k' := by
        rcases Nat.lt_trichotomy k k' with hlt | he | hlt
        · have := h k h2
          simp only [Memory.read, if_pos] at this
          rw [if_neg (by omega), Memory.read_below h4' (by omega)] at this
          exact absurd this h3
        · exact he
        · have := h k' h2'
          simp only [Memory.read, if_pos] at this
          rw [if_neg (by omega), Memory.read_below h4 (by omega)] at this
          exact absurd this.symm h3'
      subst hk
      have hb : b = b' := by
        have := h k h2
        simpa [Memory.read] using this
      subst hb
      congr 1
      refine ih h4 h4' fun a ha => ?_
      by_cases hak : a = k
      · subst hak
        rw [Memory.read_below h4 (by omega), Memory.read_below h4' (by omega)]
      · have := h a ha
        simpa [Memory.read, hak] using this

/-- The lowest out-of-range address of an access, or that it lies inside memory (20_memory.md R55). -/
theorem outOfRange_none {base n : Nat} :
    outOfRange base n = none ↔ n = 0 ∨ base + n ≤ 4096 := by
  unfold outOfRange
  rw [show Config.memSize = 4096 from rfl]
  split <;> simp <;> omega

theorem outOfRange_some {base n : Nat} (hn : 0 < n) (h : 4096 < base + n) :
    outOfRange base n = some (BitVec.ofNat 16 (max base 4096)) := by
  unfold outOfRange
  rw [if_pos ⟨hn, h⟩]

end Sys2Proof.Machine
end

