-- ==== Sys2Proof/Laws/State.lean ====
section
/-! SUPPORT. One lemma for each field under each update of State, so that no later proof unfolds one. -/

namespace Sys2Proof.Machine

@[simp] theorem State.raise_mem (s : State) (c : FaultCode) (o a : Word) : (s.raise c o a).mem = s.mem := rfl
@[simp] theorem State.raise_v (s : State) (c : FaultCode) (o a : Word) : (s.raise c o a).v = s.v := rfl
@[simp] theorem State.raise_i (s : State) (c : FaultCode) (o a : Word) : (s.raise c o a).i = s.i := rfl
@[simp] theorem State.raise_pc (s : State) (c : FaultCode) (o a : Word) : (s.raise c o a).pc = s.pc := rfl
@[simp] theorem State.raise_stack (s : State) (c : FaultCode) (o a : Word) :
    (s.raise c o a).stack = s.stack := rfl
@[simp] theorem State.raise_depth (s : State) (c : FaultCode) (o a : Word) :
    (s.raise c o a).depth = s.depth := rfl
@[simp] theorem State.raise_dt (s : State) (c : FaultCode) (o a : Word) : (s.raise c o a).dt = s.dt := rfl
@[simp] theorem State.raise_st (s : State) (c : FaultCode) (o a : Word) : (s.raise c o a).st = s.st := rfl
@[simp] theorem State.raise_fault (s : State) (c : FaultCode) (o a : Word) :
    (s.raise c o a).fault = ⟨c, s.pc, o, a⟩ := rfl
@[simp] theorem State.raise_port (s : State) (c : FaultCode) (o a : Word) :
    (s.raise c o a).port = s.port := rfl
@[simp] theorem State.raise_inputs (s : State) (c : FaultCode) (o a : Word) :
    (s.raise c o a).inputs = s.inputs := rfl

@[simp] theorem State.next_mem (s : State) : s.next.mem = s.mem := rfl
@[simp] theorem State.next_v (s : State) : s.next.v = s.v := rfl
@[simp] theorem State.next_i (s : State) : s.next.i = s.i := rfl
@[simp] theorem State.next_pc (s : State) : s.next.pc = s.pc + 2 := rfl
@[simp] theorem State.next_stack (s : State) : s.next.stack = s.stack := rfl
@[simp] theorem State.next_depth (s : State) : s.next.depth = s.depth := rfl
@[simp] theorem State.next_dt (s : State) : s.next.dt = s.dt := rfl
@[simp] theorem State.next_st (s : State) : s.next.st = s.st := rfl
@[simp] theorem State.next_fault (s : State) : s.next.fault = s.fault := rfl
@[simp] theorem State.next_port (s : State) : s.next.port = s.port := rfl
@[simp] theorem State.next_inputs (s : State) : s.next.inputs = s.inputs := rfl

@[simp] theorem State.skipIf_mem (s : State) (c : Bool) : (s.skipIf c).mem = s.mem := rfl
@[simp] theorem State.skipIf_v (s : State) (c : Bool) : (s.skipIf c).v = s.v := rfl
@[simp] theorem State.skipIf_i (s : State) (c : Bool) : (s.skipIf c).i = s.i := rfl
@[simp] theorem State.skipIf_pc (s : State) (c : Bool) : (s.skipIf c).pc = s.pc + if c then 4 else 2 := rfl
@[simp] theorem State.skipIf_stack (s : State) (c : Bool) : (s.skipIf c).stack = s.stack := rfl
@[simp] theorem State.skipIf_depth (s : State) (c : Bool) : (s.skipIf c).depth = s.depth := rfl
@[simp] theorem State.skipIf_dt (s : State) (c : Bool) : (s.skipIf c).dt = s.dt := rfl
@[simp] theorem State.skipIf_st (s : State) (c : Bool) : (s.skipIf c).st = s.st := rfl
@[simp] theorem State.skipIf_fault (s : State) (c : Bool) : (s.skipIf c).fault = s.fault := rfl
@[simp] theorem State.skipIf_port (s : State) (c : Bool) : (s.skipIf c).port = s.port := rfl
@[simp] theorem State.skipIf_inputs (s : State) (c : Bool) : (s.skipIf c).inputs = s.inputs := rfl

@[simp] theorem State.jump_mem (s : State) (w : Word) : (s.jump w).mem = s.mem := rfl
@[simp] theorem State.jump_v (s : State) (w : Word) : (s.jump w).v = s.v := rfl
@[simp] theorem State.jump_i (s : State) (w : Word) : (s.jump w).i = s.i := rfl
@[simp] theorem State.jump_pc (s : State) (w : Word) : (s.jump w).pc = w := rfl
@[simp] theorem State.jump_stack (s : State) (w : Word) : (s.jump w).stack = s.stack := rfl
@[simp] theorem State.jump_depth (s : State) (w : Word) : (s.jump w).depth = s.depth := rfl
@[simp] theorem State.jump_dt (s : State) (w : Word) : (s.jump w).dt = s.dt := rfl
@[simp] theorem State.jump_st (s : State) (w : Word) : (s.jump w).st = s.st := rfl
@[simp] theorem State.jump_fault (s : State) (w : Word) : (s.jump w).fault = s.fault := rfl
@[simp] theorem State.jump_port (s : State) (w : Word) : (s.jump w).port = s.port := rfl
@[simp] theorem State.jump_inputs (s : State) (w : Word) : (s.jump w).inputs = s.inputs := rfl

@[simp] theorem State.setReg_mem (s : State) (x : Reg) (b : Byte) : (s.setReg x b).mem = s.mem := rfl
@[simp] theorem State.setReg_v (s : State) (x : Reg) (b : Byte) : (s.setReg x b).v = s.v.set x b := rfl
@[simp] theorem State.setReg_i (s : State) (x : Reg) (b : Byte) : (s.setReg x b).i = s.i := rfl
@[simp] theorem State.setReg_pc (s : State) (x : Reg) (b : Byte) : (s.setReg x b).pc = s.pc := rfl
@[simp] theorem State.setReg_stack (s : State) (x : Reg) (b : Byte) : (s.setReg x b).stack = s.stack := rfl
@[simp] theorem State.setReg_depth (s : State) (x : Reg) (b : Byte) : (s.setReg x b).depth = s.depth := rfl
@[simp] theorem State.setReg_dt (s : State) (x : Reg) (b : Byte) : (s.setReg x b).dt = s.dt := rfl
@[simp] theorem State.setReg_st (s : State) (x : Reg) (b : Byte) : (s.setReg x b).st = s.st := rfl
@[simp] theorem State.setReg_fault (s : State) (x : Reg) (b : Byte) : (s.setReg x b).fault = s.fault := rfl
@[simp] theorem State.setReg_port (s : State) (x : Reg) (b : Byte) : (s.setReg x b).port = s.port := rfl
@[simp] theorem State.setReg_inputs (s : State) (x : Reg) (b : Byte) :
    (s.setReg x b).inputs = s.inputs := rfl

@[simp] theorem State.setFlagged_mem (s : State) (x : Reg) (b : Byte) (c : Bool) :
    (s.setFlagged x b c).mem = s.mem := rfl
@[simp] theorem State.setFlagged_v (s : State) (x : Reg) (b : Byte) (c : Bool) :
    (s.setFlagged x b c).v = (s.v.set x b).set vf (flagByte c) := rfl
@[simp] theorem State.setFlagged_i (s : State) (x : Reg) (b : Byte) (c : Bool) :
    (s.setFlagged x b c).i = s.i := rfl
@[simp] theorem State.setFlagged_pc (s : State) (x : Reg) (b : Byte) (c : Bool) :
    (s.setFlagged x b c).pc = s.pc := rfl
@[simp] theorem State.setFlagged_stack (s : State) (x : Reg) (b : Byte) (c : Bool) :
    (s.setFlagged x b c).stack = s.stack := rfl
@[simp] theorem State.setFlagged_depth (s : State) (x : Reg) (b : Byte) (c : Bool) :
    (s.setFlagged x b c).depth = s.depth := rfl
@[simp] theorem State.setFlagged_dt (s : State) (x : Reg) (b : Byte) (c : Bool) :
    (s.setFlagged x b c).dt = s.dt := rfl
@[simp] theorem State.setFlagged_st (s : State) (x : Reg) (b : Byte) (c : Bool) :
    (s.setFlagged x b c).st = s.st := rfl
@[simp] theorem State.setFlagged_fault (s : State) (x : Reg) (b : Byte) (c : Bool) :
    (s.setFlagged x b c).fault = s.fault := rfl
@[simp] theorem State.setFlagged_port (s : State) (x : Reg) (b : Byte) (c : Bool) :
    (s.setFlagged x b c).port = s.port := rfl
@[simp] theorem State.setFlagged_inputs (s : State) (x : Reg) (b : Byte) (c : Bool) :
    (s.setFlagged x b c).inputs = s.inputs := rfl

@[simp] theorem State.loadBlock_mem (s : State) (b c : Nat) : (s.loadBlock b c).mem = s.mem := rfl
@[simp] theorem State.loadBlock_i (s : State) (b c : Nat) : (s.loadBlock b c).i = s.i := rfl
@[simp] theorem State.loadBlock_pc (s : State) (b c : Nat) : (s.loadBlock b c).pc = s.pc := rfl
@[simp] theorem State.loadBlock_stack (s : State) (b c : Nat) : (s.loadBlock b c).stack = s.stack := rfl
@[simp] theorem State.loadBlock_depth (s : State) (b c : Nat) : (s.loadBlock b c).depth = s.depth := rfl
@[simp] theorem State.loadBlock_dt (s : State) (b c : Nat) : (s.loadBlock b c).dt = s.dt := rfl
@[simp] theorem State.loadBlock_st (s : State) (b c : Nat) : (s.loadBlock b c).st = s.st := rfl
@[simp] theorem State.loadBlock_fault (s : State) (b c : Nat) : (s.loadBlock b c).fault = s.fault := rfl
@[simp] theorem State.loadBlock_port (s : State) (b c : Nat) : (s.loadBlock b c).port = s.port := rfl
@[simp] theorem State.loadBlock_inputs (s : State) (b c : Nat) : (s.loadBlock b c).inputs = s.inputs := rfl

@[simp] theorem State.drawSprite_mem (s : State) (rs : List (PixelRequest Config.displayW Config.displayH)) :
    (s.drawSprite rs).mem = s.mem := rfl
@[simp] theorem State.drawSprite_v (s : State) (rs : List (PixelRequest Config.displayW Config.displayH)) :
    (s.drawSprite rs).v = s.v.set vf (flagByte (s.port.drawAll rs).2) := rfl
@[simp] theorem State.drawSprite_i (s : State) (rs : List (PixelRequest Config.displayW Config.displayH)) : (s.drawSprite rs).i = s.i := rfl
@[simp] theorem State.drawSprite_pc (s : State) (rs : List (PixelRequest Config.displayW Config.displayH)) : (s.drawSprite rs).pc = s.pc := rfl
@[simp] theorem State.drawSprite_stack (s : State) (rs : List (PixelRequest Config.displayW Config.displayH)) :
    (s.drawSprite rs).stack = s.stack := rfl
@[simp] theorem State.drawSprite_depth (s : State) (rs : List (PixelRequest Config.displayW Config.displayH)) :
    (s.drawSprite rs).depth = s.depth := rfl
@[simp] theorem State.drawSprite_dt (s : State) (rs : List (PixelRequest Config.displayW Config.displayH)) : (s.drawSprite rs).dt = s.dt := rfl
@[simp] theorem State.drawSprite_st (s : State) (rs : List (PixelRequest Config.displayW Config.displayH)) : (s.drawSprite rs).st = s.st := rfl
@[simp] theorem State.drawSprite_fault (s : State) (rs : List (PixelRequest Config.displayW Config.displayH)) :
    (s.drawSprite rs).fault = s.fault := rfl
@[simp] theorem State.drawSprite_port (s : State) (rs : List (PixelRequest Config.displayW Config.displayH)) :
    (s.drawSprite rs).port = (s.port.drawAll rs).1 := rfl
@[simp] theorem State.drawSprite_inputs (s : State) (rs : List (PixelRequest Config.displayW Config.displayH)) :
    (s.drawSprite rs).inputs = s.inputs := rfl

@[simp] theorem State.askKeys_mem (s : State) : s.askKeys.mem = s.mem := rfl
@[simp] theorem State.askKeys_v (s : State) : s.askKeys.v = s.v := rfl
@[simp] theorem State.askKeys_i (s : State) : s.askKeys.i = s.i := rfl
@[simp] theorem State.askKeys_pc (s : State) : s.askKeys.pc = s.pc := rfl
@[simp] theorem State.askKeys_stack (s : State) : s.askKeys.stack = s.stack := rfl
@[simp] theorem State.askKeys_depth (s : State) : s.askKeys.depth = s.depth := rfl
@[simp] theorem State.askKeys_dt (s : State) : s.askKeys.dt = s.dt := rfl
@[simp] theorem State.askKeys_st (s : State) : s.askKeys.st = s.st := rfl
@[simp] theorem State.askKeys_fault (s : State) : s.askKeys.fault = s.fault := rfl
@[simp] theorem State.askKeys_port (s : State) :
    s.askKeys.port = s.port.record (.keys s.inputs.nextKeyMask) := rfl
@[simp] theorem State.askKeys_inputs (s : State) :
    s.askKeys.inputs = { s.inputs with keyMasks := s.inputs.keyMasks.tail, draws := s.inputs.draws + 1 } := rfl

@[simp] theorem State.askWaitKey_mem (s : State) : s.askWaitKey.mem = s.mem := rfl
@[simp] theorem State.askWaitKey_v (s : State) : s.askWaitKey.v = s.v := rfl
@[simp] theorem State.askWaitKey_i (s : State) : s.askWaitKey.i = s.i := rfl
@[simp] theorem State.askWaitKey_pc (s : State) : s.askWaitKey.pc = s.pc := rfl
@[simp] theorem State.askWaitKey_stack (s : State) : s.askWaitKey.stack = s.stack := rfl
@[simp] theorem State.askWaitKey_depth (s : State) : s.askWaitKey.depth = s.depth := rfl
@[simp] theorem State.askWaitKey_dt (s : State) : s.askWaitKey.dt = s.dt := rfl
@[simp] theorem State.askWaitKey_st (s : State) : s.askWaitKey.st = s.st := rfl
@[simp] theorem State.askWaitKey_fault (s : State) : s.askWaitKey.fault = s.fault := rfl
@[simp] theorem State.askWaitKey_port (s : State) :
    s.askWaitKey.port = s.port.record (.waitKey s.inputs.nextKeyPress) := rfl
@[simp] theorem State.askWaitKey_inputs (s : State) :
    s.askWaitKey.inputs = { s.inputs with keyPresses := s.inputs.keyPresses.tail, draws := s.inputs.draws + 1 } := rfl

@[simp] theorem State.askRandom_mem (s : State) : s.askRandom.mem = s.mem := rfl
@[simp] theorem State.askRandom_v (s : State) : s.askRandom.v = s.v := rfl
@[simp] theorem State.askRandom_i (s : State) : s.askRandom.i = s.i := rfl
@[simp] theorem State.askRandom_pc (s : State) : s.askRandom.pc = s.pc := rfl
@[simp] theorem State.askRandom_stack (s : State) : s.askRandom.stack = s.stack := rfl
@[simp] theorem State.askRandom_depth (s : State) : s.askRandom.depth = s.depth := rfl
@[simp] theorem State.askRandom_dt (s : State) : s.askRandom.dt = s.dt := rfl
@[simp] theorem State.askRandom_st (s : State) : s.askRandom.st = s.st := rfl
@[simp] theorem State.askRandom_fault (s : State) : s.askRandom.fault = s.fault := rfl
@[simp] theorem State.askRandom_port (s : State) :
    s.askRandom.port = s.port.record (.random s.inputs.nextRandomByte) := rfl
@[simp] theorem State.askRandom_inputs (s : State) :
    s.askRandom.inputs = { s.inputs with randomBytes := s.inputs.randomBytes.tail, draws := s.inputs.draws + 1 } := rfl

@[simp] theorem State.dropAction_mem (s : State) : s.dropAction.mem = s.mem := rfl
@[simp] theorem State.dropAction_v (s : State) : s.dropAction.v = s.v := rfl
@[simp] theorem State.dropAction_i (s : State) : s.dropAction.i = s.i := rfl
@[simp] theorem State.dropAction_pc (s : State) : s.dropAction.pc = s.pc := rfl
@[simp] theorem State.dropAction_stack (s : State) : s.dropAction.stack = s.stack := rfl
@[simp] theorem State.dropAction_depth (s : State) : s.dropAction.depth = s.depth := rfl
@[simp] theorem State.dropAction_dt (s : State) : s.dropAction.dt = s.dt := rfl
@[simp] theorem State.dropAction_st (s : State) : s.dropAction.st = s.st := rfl
@[simp] theorem State.dropAction_fault (s : State) : s.dropAction.fault = s.fault := rfl
@[simp] theorem State.dropAction_port (s : State) : s.dropAction.port = s.port := rfl
@[simp] theorem State.dropAction_inputs (s : State) :
    s.dropAction.inputs = { s.inputs with actions := s.inputs.actions.tail } := rfl

/-- What is left of a state when a fault is not raised or a latch is cleared depends on the latch alone. -/
@[simp] theorem State.next_faulted (s : State) : s.next.faulted = s.faulted := rfl
@[simp] theorem State.setReg_faulted (s : State) (x : Reg) (b : Byte) : (s.setReg x b).faulted = s.faulted := rfl
@[simp] theorem State.dropAction_faulted (s : State) : s.dropAction.faulted = s.faulted := rfl

@[simp] theorem State.raise_faulted (s : State) (c : FaultCode) (o a : Word) :
    (s.raise c o a).faulted = (c != .none) := rfl

end Sys2Proof.Machine
end

