-- ==== Sys2Proof/Laws/Ops.lean ====
section
/-! SUPPORT. For each shared operation, one lemma that says everything it can do. -/

namespace Sys2Proof.Machine

/-- A checked access: the fault with nothing else changed, or the effect. -/
theorem checkedAccess_cases (i : Instr) (n : Nat) (s e : State) :
    (n = 0 ∨ s.i.toNat + n ≤ 4096) ∧ checkedAccess i n s e = .next e ∨
    (0 < n ∧ 4096 < s.i.toNat + n) ∧ checkedAccess i n s e =
      .next (s.raise .memoryOutOfBounds (encode i) (BitVec.ofNat 16 (max s.i.toNat 4096))) := by
  by_cases h : n = 0 ∨ s.i.toNat + n ≤ 4096
  · exact .inl ⟨h, by rw [checkedAccess, outOfRange_none.mpr h]⟩
  · have h' : 0 < n ∧ 4096 < s.i.toNat + n := by omega
    exact .inr ⟨h', by rw [checkedAccess, outOfRange_some h'.1 h'.2]; rfl⟩

/-- A push: none with the stack full, else the slot above the top is written and SP moves up. -/
theorem State.push?_cases (s : State) (w : Word) :
    s.sp = 15 ∧ s.push? w = none ∨
    ∃ h : s.depth.val < 16, s.push? w =
      some { s with stack := s.stack.set s.depth.val w, depth := ⟨s.depth.val + 1, by omega⟩ } := by
  by_cases h : s.depth.val < 16
  · exact .inr ⟨h, by rw [State.push?, dif_pos h]⟩
  · refine .inl ⟨?_, by rw [State.push?, dif_neg h]⟩
    have h16 : ¬s.depth.val < 16 := h
    have h17 : s.depth.val < 17 := s.depth.isLt
    simp only [State.sp]
    omega

/-- A pop: none with the stack empty, else the top slot and SP moves down. -/
theorem State.pop?_cases (s : State) :
    s.sp = -1 ∧ s.pop? = none ∨
    ∃ h : 0 < s.depth.val, s.pop? =
      some (s.stack[s.depth.val - 1]'(by omega), { s with depth := ⟨s.depth.val - 1, by omega⟩ }) := by
  by_cases h : 0 < s.depth.val
  · exact .inr ⟨h, by rw [State.pop?, dif_pos h]⟩
  · refine .inl ⟨?_, by rw [State.pop?, dif_neg h]⟩
    simp only [State.sp]
    omega

/-- SP is −1 to 15. -/
theorem State.sp_range (s : State) : -1 ≤ s.sp ∧ s.sp ≤ 15 := by
  have h17 : s.depth.val < 17 := s.depth.isLt
  simp only [State.sp]
  omega

@[simp] theorem Port.powerOn_calls (w h : Nat) : (Port.powerOn w h).calls = [] := rfl
@[simp] theorem Port.record_fb {w h : Nat} (p : Port w h) (c : PortCall w h) : (p.record c).fb = p.fb := rfl
@[simp] theorem Port.record_calls {w h : Nat} (p : Port w h) (c : PortCall w h) :
    (p.record c).calls = p.calls ++ [c] := rfl

@[simp] theorem Port.clear_calls {w h : Nat} (p : Port w h) : p.clear.calls = p.calls ++ [.clear] := rfl

theorem Port.clear_pixel {w h : Nat} (p : Port w h) (px : Fin w) (py : Fin h) :
    p.clear.pixel px py = false := by
  simp [Port.clear, Port.pixel]

/-- One draw: the pixel is XORed, every other pixel is as before, the collision is `old & bit`, one call more. -/
theorem Port.draw_spec {w h : Nat} (p : Port w h) (bit : Bool) (px : Fin w) (py : Fin h) :
    (p.draw bit px py).2 = (p.pixel px py && bit) ∧
    (p.draw bit px py).1.calls = p.calls ++ [.draw bit px py (p.pixel px py && bit)] ∧
    ∀ qx qy, (p.draw bit px py).1.pixel qx qy =
      if qx = px ∧ qy = py then p.pixel px py ^^ bit else p.pixel qx qy := by
  refine ⟨rfl, rfl, fun qx qy => ?_⟩
  simp only [Port.draw, Port.pixel, Port.record_fb, Fin.getElem_fin, Vector.getElem_set, Fin.ext_iff]
  by_cases hx : px.val = qx.val
  · by_cases hy : py.val = qy.val
    · simp [hx, hy]
    · have hy' : qy.val ≠ py.val := fun h => hy h.symm
      simp [hx, hy, hy']
  · have hx' : qx.val ≠ px.val := fun h => hx h.symm
    simp [hx, hx']

@[simp] theorem State.reg_eq (s : State) (x : Reg) : s.reg x = s.v[x] := rfl

/-- A register after a write. -/
theorem State.setReg_get (s : State) (x : Reg) (b : Byte) (r : Reg) :
    (s.setReg x b).v[r] = if r = x then b else s.v[r] := by
  simp only [State.setReg, Fin.getElem_fin, Vector.getElem_set, Fin.ext_iff, eq_comm]

/-- A register after the write of a result and its flag: the flag in VF, else the result in Vx (42_alu.md R142). -/
theorem State.setFlagged_get (s : State) (x : Reg) (b : Byte) (c : Bool) (r : Reg) :
    (s.setFlagged x b c).v[r] = if r = vf then flagByte c else if r = x then b else s.v[r] := by
  change ((s.setReg x b).setReg vf (flagByte c)).v[r] = _
  rw [State.setReg_get, State.setReg_get]

theorem flagByte_toNat (c : Bool) : (flagByte c).toNat = if c then 1 else 0 := by
  cases c <;> rfl

theorem flagByte_decide_toNat (p : Prop) [Decidable p] :
    (flagByte (decide p)).toNat = if p then 1 else 0 := by
  by_cases h : p <;> simp [h, flagByte]

@[simp] theorem blockCount_exclusive (x : Reg) : blockCount Config.blockInclusive x = x.val := rfl

/-- A register after a block load (43_index_memory.md R176). -/
theorem State.loadBlock_get (s : State) (base c : Nat) (r : Reg) :
    (s.loadBlock base c).v[r] = if r.val < c then s.mem.read (base + r.val) else s.v[r] := by
  simp [State.loadBlock]

/-- The block V0..V(c−1) as stored (43_index_memory.md R175). -/
theorem State.block_length (s : State) {c : Nat} (h : c ≤ 16) : (s.block c).length = c := by
  simp [State.block, h]

theorem State.block_get (s : State) {c k : Nat} (h : k < (s.block c).length) (h16 : k < 16) :
    (s.block c)[k] = s.v[k] := by
  simp [State.block]

end Sys2Proof.Machine
end

