-- ==== Sys2Proof/Laws/Step.lean ====
section
/-! SUPPORT. What a step can do, said once: the cases of STEP, of an instruction, and of the host's actions. -/

namespace Sys2Proof.Machine

/-- A fetch is misaligned exactly at an odd PC (10_state.md R30). -/
theorem misaligned_iff (pc : Word) : misaligned Config.oddPcPolicy pc = true ↔ pc.toNat % 2 = 1 := by
  simp [misaligned, BitVec.getLsbD, Nat.testBit_zero]

/-- The cases of a STEP, in the order of its checks (30_encoding.md R83). -/
theorem State.stepCommand_cases (s : State) :
    (s.faulted = true ∧ s.stepCommand = .next s) ∨
    (s.faulted = false ∧ s.pc.toNat % 2 = 1 ∧ s.stepCommand = .next (s.raise .misalignedPc 0 0)) ∨
    (s.faulted = false ∧ s.pc.toNat % 2 = 0 ∧ 4096 < s.pc.toNat + 2 ∧ s.stepCommand =
      .next (s.raise .memoryOutOfBounds 0 (BitVec.ofNat 16 (max s.pc.toNat 4096)))) ∨
    (s.faulted = false ∧ s.pc.toNat % 2 = 0 ∧ s.pc.toNat + 2 ≤ 4096 ∧
      ((∃ i, decode (s.mem.readWord s.pc.toNat) = .ok i ∧ s.stepCommand = exec i s) ∨
        ((∃ e, decode (s.mem.readWord s.pc.toNat) = .error e) ∧ s.stepCommand =
          .next (s.raise .unknownOpcode (s.mem.readWord s.pc.toNat) 0)))) := by
  unfold State.stepCommand
  cases hf : s.faulted
  · by_cases ho : s.pc.toNat % 2 = 1
    · refine .inr (.inl ⟨rfl, ho, ?_⟩)
      rw [if_neg (by simp), if_pos ((misaligned_iff _).mpr ho)]
      rfl
    · have hm : ¬misaligned Config.oddPcPolicy s.pc = true := fun h => ho ((misaligned_iff _).mp h)
      by_cases hr : s.pc.toNat + 2 ≤ 4096
      · refine .inr (.inr (.inr ⟨rfl, by omega, hr, ?_⟩))
        rw [if_neg (by simp), if_neg hm, outOfRange_none.mpr (.inr hr)]
        cases hd : decode (s.mem.readWord s.pc.toNat) with
        | ok i => exact .inl ⟨i, rfl, rfl⟩
        | error e => exact .inr ⟨⟨e, rfl⟩, rfl⟩
      · refine .inr (.inr (.inl ⟨rfl, by omega, by omega, ?_⟩))
        rw [if_neg (by simp), if_neg hm, outOfRange_some (by omega) (by omega)]
        rfl
  · exact .inl ⟨rfl, by simp⟩

/-- The cases of a step: what the host's next action does (60_exceptions.md R248, R249). -/
theorem step_cases (s : State) :
    (∃ rom, s.nextAction = .load rom ∧ step s = .next (s.dropAction.load Config.fontBytes rom)) ∨
    (s.nextAction = .step ∧ step s = s.dropAction.stepCommand) ∨
    (s.nextAction = .tick ∧ step s = .next s.dropAction.tick) ∨
    (s.nextAction = .overlapped ∧ step s = .refused .overlappedCommand) := by
  unfold step
  cases h : s.nextAction with
  | load rom => exact .inl ⟨rom, rfl, rfl⟩
  | step => exact .inr (.inl ⟨rfl, rfl⟩)
  | tick => exact .inr (.inr (.inl ⟨rfl, rfl⟩))
  | overlapped => exact .inr (.inr (.inr ⟨rfl, rfl⟩))

/-- A fault an instruction raises of its own (60_exceptions.md R231). -/
def RaisesOwn (i : Instr) (s t : State) : Prop :=
  (∃ nnn, i = .callAddr nnn ∧ s.sp = 15 ∧ t = s.raise .stackOverflow (encode i) 0) ∨
  (i = .ret ∧ s.sp = -1 ∧ t = s.raise .stackUnderflow (encode i) 0) ∨
  (((∃ x y n, i = .drwVxVyN x y n) ∨ ∃ x, i = .ldBVx x ∨ i = .ldIVx x ∨ i = .ldVxI x) ∧
    t = s.raise .memoryOutOfBounds (encode i) (BitVec.ofNat 16 (max s.i.toNat 4096)))

/-- The state an instruction leaves when it raises no fault of its own; SP is the only thing it needs to know. -/
def Completes (i : Instr) (s t : State) : Prop :=
  match i with
  | .cls => t = { s with port := s.port.clear }.next
  | .ret => ∃ h : 0 < s.depth.val,
      t = { s with depth := ⟨s.depth.val - 1, by omega⟩, pc := s.stack[s.depth.val - 1]'(by omega) }
  | .jpAddr nnn => t = s.jump (addrWord nnn)
  | .callAddr nnn => ∃ h : s.depth.val < 16,
      t = { s with stack := s.stack.set s.depth.val (s.pc + 2), depth := ⟨s.depth.val + 1, by omega⟩,
                   pc := addrWord nnn }
  | .seVxKk x kk => t = s.skipIf (s.v[x] == kk)
  | .sneVxKk x kk => t = s.skipIf (s.v[x] != kk)
  | .seVxVy x y => t = s.skipIf (s.v[x] == s.v[y])
  | .ldVxKk x kk => t = (s.setReg x kk).next
  | .addVxKk x kk => t = (s.setReg x (s.v[x] + kk)).next
  | .ldVxVy x y => t = (s.setReg x s.v[y]).next
  | .orVxVy x y => t = (s.setReg x (s.v[x] ||| s.v[y])).next
  | .andVxVy x y => t = (s.setReg x (s.v[x] &&& s.v[y])).next
  | .xorVxVy x y => t = (s.setReg x (s.v[x] ^^^ s.v[y])).next
  | .addVxVy x y => t = (s.setFlagged x (s.v[x] + s.v[y]) (carries s.v[x] s.v[y])).next
  | .subVxVy x y => t = (s.setFlagged x (s.v[x] - s.v[y]) (exceeds s.v[x] s.v[y])).next
  | .shrVx x => t = (s.setFlagged x (s.v[x] >>> 1) (lowBit s.v[x])).next
  | .subnVxVy x y => t = (s.setFlagged x (s.v[y] - s.v[x]) (exceeds s.v[y] s.v[x])).next
  | .shlVx x => t = (s.setFlagged x (s.v[x] <<< 1) (topBit s.v[x])).next
  | .sneVxVy x y => t = s.skipIf (s.v[x] != s.v[y])
  | .ldIAddr nnn => t = { s with i := addrWord nnn }.next
  | .jpV0Addr nnn => t = s.jump (addrWord nnn + byteWord s.v[(0 : Reg)])
  | .rndVxKk x kk => t = (s.askRandom.setReg x (s.inputs.nextRandomByte &&& kk)).next
  | .drwVxVyN x y n =>
      (n.val = 0 ∨ s.i.toNat + n.val ≤ 4096) ∧
      t = (s.drawSprite (spriteRequests 64 32 s.mem s.i.toNat n.val s.v[x] s.v[y])).next
  | .skpVx x => t = s.askKeys.skipIf (keyHeld s.inputs.nextKeyMask s.v[x])
  | .sknpVx x => t = s.askKeys.skipIf (!keyHeld s.inputs.nextKeyMask s.v[x])
  | .ldVxDt x => t = (s.setReg x s.dt).next
  | .ldVxK x => t = s.askWaitKey.takeKey x s.inputs.nextKeyPress
  | .ldDtVx x => t = { s with dt := s.v[x] }.next
  | .ldStVx x => t = { s with st := s.v[x] }.next
  | .addIVx x => t = { s with i := s.i + byteWord s.v[x] }.next
  | .ldFVx x => t = { s with i := glyphAddress s.v[x] }.next
  | .ldBVx x => s.i.toNat + 3 ≤ 4096 ∧
      t = { s with mem := s.mem.writeBytes s.i.toNat (bcdDigits s.v[x]) }.next
  | .ldIVx x => (x.val = 0 ∨ s.i.toNat + x.val ≤ 4096) ∧
      t = { s with mem := s.mem.writeBytes s.i.toNat (s.block x.val) }.next
  | .ldVxI x => (x.val = 0 ∨ s.i.toNat + x.val ≤ 4096) ∧
      t = (s.loadBlock s.i.toNat x.val).next

/-- Every instruction completes or raises a fault of its own: it always answers a next state. -/
theorem exec_cases (i : Instr) (s : State) :
    ∃ t, exec i s = .next t ∧ (Completes i s t ∨ RaisesOwn i s t) := by
  cases i with
  | ret =>
    rcases s.pop?_cases with ⟨h, hp⟩ | ⟨h, hp⟩
    · refine ⟨_, ?_, .inr (.inr (.inl ⟨rfl, h, rfl⟩))⟩
      simp only [exec, execRet, hp]; rfl
    · refine ⟨_, ?_, .inl ⟨h, rfl⟩⟩
      simp only [exec, execRet, hp]; rfl
  | callAddr nnn =>
    rcases s.push?_cases (s.pc + 2) with ⟨h, hp⟩ | ⟨h, hp⟩
    · refine ⟨_, ?_, .inr (.inl ⟨nnn, rfl, h, rfl⟩)⟩
      simp only [exec, execCallAddr, hp]; rfl
    · refine ⟨_, ?_, .inl ⟨h, rfl⟩⟩
      simp only [exec, execCallAddr, hp]; rfl
  | drwVxVyN x y n =>
    rcases checkedAccess_cases (.drwVxVyN x y n) n.val s
      (s.drawSprite (spriteRequests 64 32 s.mem s.i.toNat n.val s.v[x] s.v[y])).next with ⟨h, hc⟩ | ⟨h, hc⟩
    · exact ⟨_, hc, .inl ⟨h, rfl⟩⟩
    · exact ⟨_, hc, .inr (.inr (.inr ⟨.inl ⟨x, y, n, rfl⟩, rfl⟩))⟩
  | ldBVx x =>
    rcases checkedAccess_cases (.ldBVx x) 3 s
      { s with mem := s.mem.writeBytes s.i.toNat (bcdDigits s.v[x]) }.next with ⟨h, hc⟩ | ⟨h, hc⟩
    · exact ⟨_, hc, .inl ⟨by omega, rfl⟩⟩
    · exact ⟨_, hc, .inr (.inr (.inr ⟨.inr ⟨x, .inl rfl⟩, rfl⟩))⟩
  | ldIVx x =>
    rcases checkedAccess_cases (.ldIVx x) x.val s
      { s with mem := s.mem.writeBytes s.i.toNat (s.block x.val) }.next with ⟨h, hc⟩ | ⟨h, hc⟩
    · exact ⟨_, hc, .inl ⟨h, rfl⟩⟩
    · exact ⟨_, hc, .inr (.inr (.inr ⟨.inr ⟨x, .inr (.inl rfl)⟩, rfl⟩))⟩
  | ldVxI x =>
    rcases checkedAccess_cases (.ldVxI x) x.val s
      (s.loadBlock s.i.toNat x.val).next with ⟨h, hc⟩ | ⟨h, hc⟩
    · exact ⟨_, hc, .inl ⟨h, rfl⟩⟩
    · exact ⟨_, hc, .inr (.inr (.inr ⟨.inr ⟨x, .inr (.inr rfl)⟩, rfl⟩))⟩
  | _ => exact ⟨_, rfl, .inl rfl⟩

/-- The inversion of an instruction that answers a next state. -/
theorem exec_inv {i : Instr} {s t : State} (h : exec i s = .next t) : Completes i s t ∨ RaisesOwn i s t := by
  obtain ⟨u, hu, hc⟩ := exec_cases i s
  rw [hu] at h
  cases h
  exact hc

/-- An instruction that completes leaves the latch. -/
theorem completes_fault {i : Instr} {s t : State} (h : Completes i s t) : t.fault = s.fault := by
  cases i <;> simp only [Completes] at h
  case ret | callAddr | drwVxVyN | ldBVx | ldIVx | ldVxI => obtain ⟨_, rfl⟩ := h; rfl
  case ldVxK => subst h; cases s.inputs.nextKeyPress <;> rfl
  all_goals (subst h; rfl)

/-- A fault of an instruction's own writes the latch and nothing else (60_exceptions.md R236). -/
theorem raisesOwn_raise {i : Instr} {s t : State} (h : RaisesOwn i s t) :
    ∃ c a, c ≠ .none ∧ t = s.raise c (encode i) a := by
  rcases h with ⟨_, _, _, h⟩ | ⟨_, _, h⟩ | ⟨_, h⟩
  · exact ⟨_, _, by simp, h⟩
  · exact ⟨_, _, by simp, h⟩
  · exact ⟨_, _, by simp, h⟩

end Sys2Proof.Machine
end

