-- ==== Sys2Proof/Laws/Commands.lean ====
section
/-! SUPPORT. What `LOAD` writes (70_reset_and_hazards.md R270, R271) and what `TICK` does (60_exceptions.md R245). -/

namespace Sys2Proof.Machine

@[simp] theorem highByte_joinBytes (hi lo : Byte) : highByte (joinBytes hi lo) = hi := by
  apply BitVec.eq_of_getLsbD_eq
  intro b hb
  simp only [joinBytes, highByte, BitVec.getLsbD_extractLsb', BitVec.getLsbD_append, hb,
    decide_true, Bool.true_and]
  rw [if_neg (by omega), Nat.add_sub_cancel_left]

@[simp] theorem lowByte_joinBytes (hi lo : Byte) : lowByte (joinBytes hi lo) = lo := by
  apply BitVec.eq_of_getLsbD_eq
  intro b hb
  simp only [joinBytes, lowByte, BitVec.getLsbD_extractLsb', BitVec.getLsbD_append, hb,
    decide_true, Bool.true_and]
  rw [if_pos (by omega), Nat.zero_add]

/-- What `LOAD` writes of a ROM: its bytes, and one zero byte after an odd number (R271, `pad`). -/
theorem wordBytes_romWords (rom : List Byte) :
    wordBytes (romWords Config.oddRomPolicy rom) = rom ++ List.replicate (rom.length % 2) 0 := by
  fun_induction romWords Config.oddRomPolicy rom with
  | case1 hi lo rest ih =>
    have hm : (rest.length + 1 + 1) % 2 = rest.length % 2 := by omega
    simp [wordBytes, ih, hm]
  | case2 hi => simp [wordBytes]
  | case3 hi h => exact absurd h (by decide)
  | case4 => rfl

/-- A timer at a `TICK`: one less, never below zero. -/
theorem tickTimer_toNat (t : Byte) : (tickTimer t).toNat = t.toNat - 1 := by
  unfold tickTimer
  split
  · simp_all
  · rename_i h
    have hp : 1 ≤ t.toNat := by
      rcases Nat.eq_zero_or_pos t.toNat with h0 | h0
      · exact absurd (BitVec.eq_of_toNat_eq h0) h
      · exact h0
    have := t.isLt
    rw [BitVec.toNat_sub]
    simp
    omega

/-- The default table is what an unlisted address already reads as. -/
@[simp] theorem fontImage_default : fontImage Config.fontBytes = [] := by decide +kernel

/-- Memory before the ROM: canonical, the table in its 80 bytes and the old bytes (0) from there on. -/
theorem fontImage_spec (font : Config.FontTable) :
    (fontImage font).wf = true ∧ ∀ a, (fontImage font).read a = byteBeforeRom font a := by
  obtain ⟨hw, hr⟩ := Memory.writeBytes_spec Memory.empty_wf (a := 0) (bs := font.toList) (by simp)
  refine ⟨hw, fun a => ?_⟩
  rw [fontImage, hr]
  by_cases h : a < 80
  · rw [dif_pos (by simpa using h)]
    simp [byteBeforeRom, h]
  · rw [dif_neg (by simpa using h)]
    simp only [Memory.read, initialByte, byteBeforeRom, Nat.sub_zero]
    rw [List.getD_eq_default _ _ (by simp; omega), List.getD_eq_default _ _ (by simp; omega)]

/-- Below 80 the byte before the ROM is the table's. -/
theorem byteBeforeRom_font {font : Config.FontTable} {a : Nat} (h : a < 80) :
    font[a]? = some (byteBeforeRom font a) := by
  simp [byteBeforeRom, h]

/-- From 80 on the byte before the ROM is 0. -/
theorem byteBeforeRom_zero {font : Config.FontTable} {a : Nat} (h : 80 ≤ a) : byteBeforeRom font a = 0 :=
  List.getD_eq_default _ _ (by simpa using h)

/-- The core that `LOAD` resets under the default table is the reset core. -/
@[simp] theorem State.resetCore_default (s : State) :
    s.resetCore Config.fontBytes = { State.reset with port := s.port, inputs := s.inputs } := by
  rw [State.resetCore, fontImage_default]
  rfl

/-- The cases of `LOAD` under any font table (R270, R272). -/
theorem State.load_cases (font : Config.FontTable) (s : State) (rom : List Byte) :
    (3584 < rom.length ∧ s.load font rom =
      (s.resetCore font).raise .memoryOutOfBounds 0 (BitVec.ofNat 16 4096)) ∨
    (rom.length ≤ 3584 ∧ s.load font rom = { s.resetCore font with
      mem := (fontImage font).writeBytes 0x200 (rom ++ List.replicate (rom.length % 2) 0) }) := by
  have hl : (wordBytes (romWords Config.oddRomPolicy rom)).length = rom.length + rom.length % 2 := by
    rw [wordBytes_romWords]
    simp
  by_cases h : 3584 < rom.length
  · refine .inl ⟨h, ?_⟩
    simp only [State.load, hl]
    rw [if_pos (by simp only [Config.maxRom]; omega)]
  · refine .inr ⟨by omega, ?_⟩
    simp only [State.load, hl]
    rw [if_neg (by simp only [Config.maxRom]; omega), wordBytes_romWords]
    rfl

end Sys2Proof.Machine
end

