-- ==== Sys2Proof/Laws/PerInstr.lean ====
section
/-! SUPPORT. The family `RowMatch`: the table has a row of each instruction's id that its encoding matches. -/

namespace Sys2Proof.Laws.RowMatch

/-- The encoding of the instruction matches a row of the table with the instruction's id (30_encoding.md R78). -/
def Statement (i : Instr) : Prop := ∃ r ∈ table, r.id = i.term.id ∧ r.accepts (encode i) = true

theorem cls : Statement (.cls) := by
  refine ⟨⟨.cls, 0xFFFF, 0x00E0⟩, by decide, rfl, ?_⟩
  decide

theorem ret : Statement (.ret) := by
  refine ⟨⟨.ret, 0xFFFF, 0x00EE⟩, by decide, rfl, ?_⟩
  decide

theorem jpAddr (nnn : Addr) : Statement (.jpAddr nnn) := by
  refine ⟨⟨.jpAddr, 0xF000, 0x1000⟩, by decide, rfl, ?_⟩
  rw [Row.accepts, encode, wordNnn_and_class]
  decide

theorem callAddr (nnn : Addr) : Statement (.callAddr nnn) := by
  refine ⟨⟨.callAddr, 0xF000, 0x2000⟩, by decide, rfl, ?_⟩
  rw [Row.accepts, encode, wordNnn_and_class]
  decide

theorem seVxKk (x : Reg) (kk : Byte) : Statement (.seVxKk x kk) := by
  refine ⟨⟨.seVxKk, 0xF000, 0x3000⟩, by decide, rfl, ?_⟩
  rw [Row.accepts, encode, wordXkk_and_class]
  decide

theorem sneVxKk (x : Reg) (kk : Byte) : Statement (.sneVxKk x kk) := by
  refine ⟨⟨.sneVxKk, 0xF000, 0x4000⟩, by decide, rfl, ?_⟩
  rw [Row.accepts, encode, wordXkk_and_class]
  decide

theorem seVxVy (x y : Reg) : Statement (.seVxVy x y) := by
  refine ⟨⟨.seVxVy, 0xF00F, 0x5000⟩, by decide, rfl, ?_⟩
  rw [Row.accepts, encode, wordXyn_and_function]
  decide

theorem ldVxKk (x : Reg) (kk : Byte) : Statement (.ldVxKk x kk) := by
  refine ⟨⟨.ldVxKk, 0xF000, 0x6000⟩, by decide, rfl, ?_⟩
  rw [Row.accepts, encode, wordXkk_and_class]
  decide

theorem addVxKk (x : Reg) (kk : Byte) : Statement (.addVxKk x kk) := by
  refine ⟨⟨.addVxKk, 0xF000, 0x7000⟩, by decide, rfl, ?_⟩
  rw [Row.accepts, encode, wordXkk_and_class]
  decide

theorem ldVxVy (x y : Reg) : Statement (.ldVxVy x y) := by
  refine ⟨⟨.ldVxVy, 0xF00F, 0x8000⟩, by decide, rfl, ?_⟩
  rw [Row.accepts, encode, wordXyn_and_function]
  decide

theorem orVxVy (x y : Reg) : Statement (.orVxVy x y) := by
  refine ⟨⟨.orVxVy, 0xF00F, 0x8001⟩, by decide, rfl, ?_⟩
  rw [Row.accepts, encode, wordXyn_and_function]
  decide

theorem andVxVy (x y : Reg) : Statement (.andVxVy x y) := by
  refine ⟨⟨.andVxVy, 0xF00F, 0x8002⟩, by decide, rfl, ?_⟩
  rw [Row.accepts, encode, wordXyn_and_function]
  decide

theorem xorVxVy (x y : Reg) : Statement (.xorVxVy x y) := by
  refine ⟨⟨.xorVxVy, 0xF00F, 0x8003⟩, by decide, rfl, ?_⟩
  rw [Row.accepts, encode, wordXyn_and_function]
  decide

theorem addVxVy (x y : Reg) : Statement (.addVxVy x y) := by
  refine ⟨⟨.addVxVy, 0xF00F, 0x8004⟩, by decide, rfl, ?_⟩
  rw [Row.accepts, encode, wordXyn_and_function]
  decide

theorem subVxVy (x y : Reg) : Statement (.subVxVy x y) := by
  refine ⟨⟨.subVxVy, 0xF00F, 0x8005⟩, by decide, rfl, ?_⟩
  rw [Row.accepts, encode, wordXyn_and_function]
  decide

theorem shrVx (x : Reg) : Statement (.shrVx x) := by
  refine ⟨⟨.shrVx, 0xF00F, 0x8006⟩, by decide, rfl, ?_⟩
  rw [Row.accepts, encode, wordXyn_and_function]
  decide

theorem subnVxVy (x y : Reg) : Statement (.subnVxVy x y) := by
  refine ⟨⟨.subnVxVy, 0xF00F, 0x8007⟩, by decide, rfl, ?_⟩
  rw [Row.accepts, encode, wordXyn_and_function]
  decide

theorem shlVx (x : Reg) : Statement (.shlVx x) := by
  refine ⟨⟨.shlVx, 0xF00F, 0x800E⟩, by decide, rfl, ?_⟩
  rw [Row.accepts, encode, wordXyn_and_function]
  decide

theorem sneVxVy (x y : Reg) : Statement (.sneVxVy x y) := by
  refine ⟨⟨.sneVxVy, 0xF00F, 0x9000⟩, by decide, rfl, ?_⟩
  rw [Row.accepts, encode, wordXyn_and_function]
  decide

theorem ldIAddr (nnn : Addr) : Statement (.ldIAddr nnn) := by
  refine ⟨⟨.ldIAddr, 0xF000, 0xA000⟩, by decide, rfl, ?_⟩
  rw [Row.accepts, encode, wordNnn_and_class]
  decide

theorem jpV0Addr (nnn : Addr) : Statement (.jpV0Addr nnn) := by
  refine ⟨⟨.jpV0Addr, 0xF000, 0xB000⟩, by decide, rfl, ?_⟩
  rw [Row.accepts, encode, wordNnn_and_class]
  decide

theorem rndVxKk (x : Reg) (kk : Byte) : Statement (.rndVxKk x kk) := by
  refine ⟨⟨.rndVxKk, 0xF000, 0xC000⟩, by decide, rfl, ?_⟩
  rw [Row.accepts, encode, wordXkk_and_class]
  decide

theorem drwVxVyN (x y : Reg) (n : Count) : Statement (.drwVxVyN x y n) := by
  refine ⟨⟨.drwVxVyN, 0xF000, 0xD000⟩, by decide, rfl, ?_⟩
  rw [Row.accepts, encode, wordXyn_and_class]
  decide

theorem skpVx (x : Reg) : Statement (.skpVx x) := by
  refine ⟨⟨.skpVx, 0xF0FF, 0xE09E⟩, by decide, rfl, ?_⟩
  rw [Row.accepts, encode, wordXkk_and_function]
  decide

theorem sknpVx (x : Reg) : Statement (.sknpVx x) := by
  refine ⟨⟨.sknpVx, 0xF0FF, 0xE0A1⟩, by decide, rfl, ?_⟩
  rw [Row.accepts, encode, wordXkk_and_function]
  decide

theorem ldVxDt (x : Reg) : Statement (.ldVxDt x) := by
  refine ⟨⟨.ldVxDt, 0xF0FF, 0xF007⟩, by decide, rfl, ?_⟩
  rw [Row.accepts, encode, wordXkk_and_function]
  decide

theorem ldVxK (x : Reg) : Statement (.ldVxK x) := by
  refine ⟨⟨.ldVxK, 0xF0FF, 0xF00A⟩, by decide, rfl, ?_⟩
  rw [Row.accepts, encode, wordXkk_and_function]
  decide

theorem ldDtVx (x : Reg) : Statement (.ldDtVx x) := by
  refine ⟨⟨.ldDtVx, 0xF0FF, 0xF015⟩, by decide, rfl, ?_⟩
  rw [Row.accepts, encode, wordXkk_and_function]
  decide

theorem ldStVx (x : Reg) : Statement (.ldStVx x) := by
  refine ⟨⟨.ldStVx, 0xF0FF, 0xF018⟩, by decide, rfl, ?_⟩
  rw [Row.accepts, encode, wordXkk_and_function]
  decide

theorem addIVx (x : Reg) : Statement (.addIVx x) := by
  refine ⟨⟨.addIVx, 0xF0FF, 0xF01E⟩, by decide, rfl, ?_⟩
  rw [Row.accepts, encode, wordXkk_and_function]
  decide

theorem ldFVx (x : Reg) : Statement (.ldFVx x) := by
  refine ⟨⟨.ldFVx, 0xF0FF, 0xF029⟩, by decide, rfl, ?_⟩
  rw [Row.accepts, encode, wordXkk_and_function]
  decide

theorem ldBVx (x : Reg) : Statement (.ldBVx x) := by
  refine ⟨⟨.ldBVx, 0xF0FF, 0xF033⟩, by decide, rfl, ?_⟩
  rw [Row.accepts, encode, wordXkk_and_function]
  decide

theorem ldIVx (x : Reg) : Statement (.ldIVx x) := by
  refine ⟨⟨.ldIVx, 0xF0FF, 0xF055⟩, by decide, rfl, ?_⟩
  rw [Row.accepts, encode, wordXkk_and_function]
  decide

theorem ldVxI (x : Reg) : Statement (.ldVxI x) := by
  refine ⟨⟨.ldVxI, 0xF0FF, 0xF065⟩, by decide, rfl, ?_⟩
  rw [Row.accepts, encode, wordXkk_and_function]
  decide

end Sys2Proof.Laws.RowMatch
end

