-- ==== Sys2Proof/Laws/Port.lean ====
section
/-! SUPPORT. A sprite's pixel requests and what drawing them does (44_display.md R191, 60_exceptions.md R252). -/

namespace Sys2Proof.Machine

variable {w h : Nat}

/-- The request is for this pixel. -/
def PixelRequest.at (r : PixelRequest w h) (px : Fin w) (py : Fin h) : Bool :=
  px = r.px && py = r.py

/-- Whether an odd number of the 1-bits of a list of requests lie on a pixel. -/
def flips : List (PixelRequest w h) → Fin w → Fin h → Bool
  | [], _, _ => false
  | r :: rs, px, py => (r.at px py && r.bit) ^^ flips rs px py

/-- Drawing a list XORs each pixel with the parity of the 1-bits on it. -/
theorem Port.drawAll_pixel (p : Port w h) (rs : List (PixelRequest w h)) (px : Fin w)
    (py : Fin h) : (p.drawAll rs).1.pixel px py = (p.pixel px py ^^ flips rs px py) := by
  induction rs generalizing p with
  | nil => simp [Port.drawAll, flips]
  | cons r rs ih =>
    simp only [Port.drawAll, flips, ih, (p.draw_spec r.bit r.px r.py).2.2, PixelRequest.at]
    by_cases h : px = r.px ∧ py = r.py
    · obtain ⟨rfl, rfl⟩ := h
      simp
    · have h' : (decide (px = r.px) && decide (py = r.py)) = false := by simpa using h
      simp [h, h']

/-- Drawing a list makes one call a request, in order; the answer of each is taken from the pixels that the ones
before it left. -/
theorem Port.drawAll_calls (p : Port w h) (rs : List (PixelRequest w h)) :
    ∃ cs : List (PortCall w h), (p.drawAll rs).1.calls = p.calls ++ cs ∧ cs.length = rs.length ∧
      ∀ k, (hk : k < rs.length) → cs[k]? = some (.draw rs[k].bit rs[k].px rs[k].py
        ((p.drawAll (rs.take k)).1.pixel rs[k].px rs[k].py && rs[k].bit)) := by
  induction rs generalizing p with
  | nil => exact ⟨[], by simp [Port.drawAll], rfl, fun k hk => absurd hk (by simp)⟩
  | cons r rs ih =>
    obtain ⟨cs, h1, h2, h3⟩ := ih (p.draw r.bit r.px r.py).1
    refine ⟨.draw r.bit r.px r.py (p.pixel r.px r.py && r.bit) :: cs, ?_, by simp [h2], ?_⟩
    · simp only [Port.drawAll, h1, (p.draw_spec r.bit r.px r.py).2.1, List.append_assoc, List.singleton_append]
    · intro k hk
      cases k with
      | zero => rfl
      | succ k => simpa [Port.drawAll] using h3 k (by simpa using hk)

/-- Drawing a list collides when one of its calls does. -/
theorem Port.drawAll_collides (p : Port w h) (rs : List (PixelRequest w h)) :
    (p.drawAll rs).2 = true ↔ ∃ k, ∃ hk : k < rs.length,
      ((p.drawAll (rs.take k)).1.pixel rs[k].px rs[k].py && rs[k].bit) = true := by
  induction rs generalizing p with
  | nil => simp [Port.drawAll]
  | cons r rs ih =>
    simp only [Port.drawAll, Bool.or_eq_true, ih, (p.draw_spec r.bit r.px r.py).1]
    constructor
    · rintro (hr | ⟨k, hk, hc⟩)
      · exact ⟨0, by simp, hr⟩
      · exact ⟨k + 1, by simpa using hk, by simpa [Port.drawAll] using hc⟩
    · rintro ⟨k, hk, hc⟩
      cases k with
      | zero => exact .inl hc
      | succ k => exact .inr ⟨k, by simpa using hk, by simpa [Port.drawAll] using hc⟩

/-- A pixel is flipped exactly when an odd number of 1-bits lie on it. -/
theorem flips_countP (rs : List (PixelRequest w h)) (px : Fin w) (py : Fin h) :
    flips rs px py = decide ((rs.countP fun r => r.at px py && r.bit) % 2 = 1) := by
  induction rs with
  | nil => rfl
  | cons r rs ih =>
    rw [flips, ih, List.countP_cons]
    have hp := Nat.mod_two_eq_zero_or_one (rs.countP fun r => r.at px py && r.bit)
    cases r.at px py && r.bit <;> rcases hp with hp | hp <;> simp [hp, Nat.add_mod]

/-- A pixel that no request asks for is not flipped. -/
theorem flips_of_not_mem {rs : List (PixelRequest w h)} {px : Fin w} {py : Fin h}
    (h : ∀ r ∈ rs, r.at px py = true → r.bit = false) : flips rs px py = false := by
  induction rs with
  | nil => rfl
  | cons r rs ih =>
    simp only [flips]
    rw [ih fun q hq => h q (List.mem_cons_of_mem _ hq)]
    cases ha : r.at px py
    · rfl
    · simp [h r (List.mem_cons_self ..) ha]

/-- No two requests ask for the same pixel. -/
abbrev DistinctPixels (rs : List (PixelRequest w h)) : Prop := rs.Pairwise fun r q => ¬(r.px = q.px ∧ r.py = q.py)

/-- With distinct pixels, a pixel is flipped exactly when a 1-bit lies on it. -/
theorem flips_iff {rs : List (PixelRequest w h)} (hd : DistinctPixels rs) {px : Fin w}
    {py : Fin h} : flips rs px py = true ↔ ∃ r ∈ rs, r.at px py = true ∧ r.bit = true := by
  induction rs with
  | nil => simp [flips]
  | cons r rs ih =>
    obtain ⟨h1, h2⟩ := List.pairwise_cons.mp hd
    simp only [flips]
    cases ha : r.at px py
    · simp [ih h2, ha]
    · have hn : flips rs px py = false := by
        refine flips_of_not_mem fun q hq hqa => ?_
        simp only [PixelRequest.at, Bool.and_eq_true, decide_eq_true_eq] at ha hqa
        exact absurd ⟨ha.1.symm.trans hqa.1, ha.2.symm.trans hqa.2⟩ (h1 q hq)
      simp only [hn, Bool.true_and, Bool.xor_false, List.mem_cons, exists_eq_or_imp, ha, true_and]
      refine ⟨.inl, fun h => ?_⟩
      rcases h with h | ⟨q, hq, hqa, hqb⟩
      · exact h
      · simp only [PixelRequest.at, Bool.and_eq_true, decide_eq_true_eq] at ha hqa
        exact absurd ⟨ha.1.symm.trans hqa.1, ha.2.symm.trans hqa.2⟩ (h1 q hq)

/-- With distinct pixels, a collision is a 1-bit on a pixel that is 1 before the first draw. -/
theorem Port.drawAll_collision (p : Port w h) {rs : List (PixelRequest w h)} (hd : DistinctPixels rs) :
    (p.drawAll rs).2 = true ↔ ∃ r ∈ rs, r.bit = true ∧ p.pixel r.px r.py = true := by
  induction rs generalizing p with
  | nil => simp [Port.drawAll]
  | cons r rs ih =>
    obtain ⟨h1, h2⟩ := List.pairwise_cons.mp hd
    simp only [Port.drawAll, Bool.or_eq_true, ih _ h2, (p.draw_spec r.bit r.px r.py).1,
      (p.draw_spec r.bit r.px r.py).2.2, Bool.and_eq_true, List.mem_cons, exists_eq_or_imp]
    refine or_congr (and_comm) ⟨?_, ?_⟩
    · rintro ⟨q, hq, hb, hp⟩
      rw [if_neg fun h => h1 q hq ⟨h.1.symm, h.2.symm⟩] at hp
      exact ⟨q, hq, hb, hp⟩
    · rintro ⟨q, hq, hb, hp⟩
      refine ⟨q, hq, hb, ?_⟩
      rw [if_neg fun h => h1 q hq ⟨h.1.symm, h.2.symm⟩]
      exact hp

variable [NeZero w] [NeZero h]

/-- One row more is eight requests more. -/
theorem spriteRequests_succ (m : Memory) (base n : Nat) (bx by_ : Byte) :
    spriteRequests w h m base (n + 1) bx by_ = spriteRequests w h m base n bx by_ ++
      (List.range 8).map fun col => pixelRequest w h (m.read (base + n)) bx by_ n col := by
  simp [spriteRequests, List.range_succ]

/-- The requests of a sprite: `8 × n` of them. -/
theorem spriteRequests_length (m : Memory) (base n : Nat) (bx by_ : Byte) :
    (spriteRequests w h m base n bx by_).length = 8 * n := by
  induction n with
  | zero => rfl
  | succ n ih =>
    rw [spriteRequests_succ, List.length_append, ih, List.length_map, List.length_range]
    omega

/-- The request at a row and column. -/
theorem spriteRequests_get (m : Memory) (base n : Nat) (bx by_ : Byte) {row col : Nat} (hr : row < n)
    (hc : col < 8) :
    (spriteRequests w h m base n bx by_)[8 * row + col]? =
      some (pixelRequest w h (m.read (base + row)) bx by_ row col) := by
  induction n with
  | zero => omega
  | succ n ih =>
    have hl := spriteRequests_length (w := w) (h := h) m base n bx by_
    rw [spriteRequests_succ]
    by_cases h : row < n
    · rw [List.getElem?_append_left (by omega)]
      exact ih h
    · have he : row = n := by omega
      subst he
      rw [List.getElem?_append_right (by omega), hl, Nat.add_sub_cancel_left]
      simp [hc]

theorem mem_spriteRequests {m : Memory} {base n : Nat} {bx by_ : Byte} {r : PixelRequest w h} :
    r ∈ spriteRequests w h m base n bx by_ ↔
      ∃ row < n, ∃ col < 8, pixelRequest w h (m.read (base + row)) bx by_ row col = r := by
  simp [spriteRequests, List.mem_flatMap]

omit [NeZero w] in
/-- Wrapping around an edge is injective on offsets below the size. -/
theorem wrap_injective {a c d : Nat} (hc : c < w) (hd : d < w) (he : (a + c) % w = (a + d) % w) : c = d :=
  Nat.ModEq.eq_of_lt_of_lt (Nat.ModEq.add_left_cancel' a he) hc hd

/-- The pixels of a sprite are distinct on a display at least as wide and high as the sprite. -/
theorem spriteRequests_distinct (m : Memory) (base : Nat) {n : Nat} (bx by_ : Byte) (hw : 8 ≤ w) (hn : n ≤ h) :
    DistinctPixels (spriteRequests w h m base n bx by_) := by
  rw [DistinctPixels, spriteRequests, List.pairwise_flatMap]
  constructor
  · intro row _
    rw [List.pairwise_map]
    refine List.Pairwise.imp_of_mem ?_ (List.pairwise_lt_range (n := 8))
    intro a b ha hb hab hp
    rw [List.mem_range] at ha hb
    have := wrap_injective (by omega) (by omega) (congrArg Fin.val hp.1)
    omega
  · refine List.Pairwise.imp_of_mem ?_ (List.pairwise_lt_range (n := n))
    intro a b ha hb hab r hr q hq hp
    simp only [List.mem_map] at hr hq
    rw [List.mem_range] at ha hb
    obtain ⟨c, _, rfl⟩ := hr
    obtain ⟨d, _, rfl⟩ := hq
    have := wrap_injective (by omega) (by omega) (congrArg Fin.val hp.2)
    omega

end Sys2Proof.Machine
end

