-- ==== Sys2Proof/Tests/Slice0.lean ====
section
/-! SUPPORT. Tests: ill-formed terms refused, one written-out word for each constructor, small steps whose results are
the vectors V<n> and examples S<n> of 95_test_vectors.md, and a witness for every hypothesis of an obligation. -/

namespace Sys2Proof.Tests

open Sys2Proof.Machine

/-! ### Well-formedness: an ill-formed term for each check -/

theorem test_wf_accepts : Term.wellFormed ⟨.drwVxVyN, [15, 0, 15]⟩ = true := by decide
theorem test_wf_refuses_missing_operand : Term.wellFormed ⟨.ldVxKk, [10]⟩ = false := by decide
theorem test_wf_refuses_extra_operand : Term.wellFormed ⟨.cls, [0]⟩ = false := by decide
theorem test_wf_refuses_y_of_shift : Term.wellFormed ⟨.shrVx, [1, 2]⟩ = false := by decide
theorem test_wf_refuses_register_16 : Term.wellFormed ⟨.ldVxVy, [0, 16]⟩ = false := by decide
theorem test_wf_refuses_byte_256 : Term.wellFormed ⟨.ldVxKk, [0, 256]⟩ = false := by decide
theorem test_wf_refuses_address_4096 : Term.wellFormed ⟨.jpAddr, [4096]⟩ = false := by decide
theorem test_wf_refuses_count_16 : Term.wellFormed ⟨.drwVxVyN, [0, 0, 16]⟩ = false := by decide

/-! ### Decoding: words written out from 30_encoding.md R71 and R78 -/

theorem test_decode_cls : decode 0b0000000011100000 = .ok .cls := by decide
theorem test_decode_ret : decode 0b0000000011101110 = .ok .ret := by decide
theorem test_decode_jp : decode 0b0001_101010111100 = .ok (.jpAddr 0xABC) := by decide
theorem test_decode_call : decode 0b0010_111111111110 = .ok (.callAddr 0xFFE) := by decide
theorem test_decode_se_kk : decode 0b0011_1010_00000101 = .ok (.seVxKk 10 5) := by decide
theorem test_decode_sne_kk : decode 0b0100_0001_10000010 = .ok (.sneVxKk 1 0x82) := by decide
theorem test_decode_se_vy : decode 0b0101_0001_0010_0000 = .ok (.seVxVy 1 2) := by decide
theorem test_decode_ld_kk : decode 0b0110_1010_00000101 = .ok (.ldVxKk 10 5) := by decide
theorem test_decode_add_kk : decode 0b0111_0001_11111111 = .ok (.addVxKk 1 0xFF) := by decide
theorem test_decode_ld_vy : decode 0b1000_1111_0001_0000 = .ok (.ldVxVy 15 1) := by decide
theorem test_decode_or : decode 0b1000_0001_0010_0001 = .ok (.orVxVy 1 2) := by decide
theorem test_decode_and : decode 0b1000_0001_0010_0010 = .ok (.andVxVy 1 2) := by decide
theorem test_decode_xor : decode 0b1000_0001_0010_0011 = .ok (.xorVxVy 1 2) := by decide
theorem test_decode_add_vy : decode 0b1000_0001_0010_0100 = .ok (.addVxVy 1 2) := by decide
theorem test_decode_sub : decode 0b1000_0001_0010_0101 = .ok (.subVxVy 1 2) := by decide
theorem test_decode_shr : decode 0b1000_0001_0010_0110 = .ok (.shrVx 1) := by decide
theorem test_decode_subn : decode 0b1000_0001_0010_0111 = .ok (.subnVxVy 1 2) := by decide
theorem test_decode_shl : decode 0b1000_0001_0010_1110 = .ok (.shlVx 1) := by decide
theorem test_decode_sne_vy : decode 0b1001_0001_0010_0000 = .ok (.sneVxVy 1 2) := by decide
theorem test_decode_ld_i : decode 0b1010_000001010000 = .ok (.ldIAddr 0x050) := by decide
theorem test_decode_jp_v0 : decode 0b1011_001100000000 = .ok (.jpV0Addr 0x300) := by decide
theorem test_decode_rnd : decode 0b1100_0011_00001111 = .ok (.rndVxKk 3 0x0F) := by decide
theorem test_decode_drw : decode 0b1101_1111_0001_0101 = .ok (.drwVxVyN 15 1 5) := by decide
theorem test_decode_skp : decode 0b1110_0011_10011110 = .ok (.skpVx 3) := by decide
theorem test_decode_sknp : decode 0b1110_0011_10100001 = .ok (.sknpVx 3) := by decide
theorem test_decode_ld_dt_read : decode 0b1111_0101_00000111 = .ok (.ldVxDt 5) := by decide
theorem test_decode_ld_k : decode 0b1111_0011_00001010 = .ok (.ldVxK 3) := by decide
theorem test_decode_ld_dt : decode 0b1111_0001_00010101 = .ok (.ldDtVx 1) := by decide
theorem test_decode_ld_st : decode 0b1111_0001_00011000 = .ok (.ldStVx 1) := by decide
theorem test_decode_add_i : decode 0b1111_0010_00011110 = .ok (.addIVx 2) := by decide
theorem test_decode_ld_f : decode 0b1111_0111_00101001 = .ok (.ldFVx 7) := by decide
theorem test_decode_ld_b : decode 0b1111_0011_00110011 = .ok (.ldBVx 3) := by decide
theorem test_decode_store : decode 0b1111_0110_01010101 = .ok (.ldIVx 6) := by decide
theorem test_decode_load : decode 0b1111_0010_01100101 = .ok (.ldVxI 2) := by decide

/-- A word of each illegal class, from V5–V12 of 95_test_vectors.md. -/
theorem test_decode_illegal :
    decode 0x0000 = .error (.unknownOpcode 0x0000) ∧
    decode 0x00E1 = .error (.unknownOpcode 0x00E1) ∧
    decode 0x5121 = .error (.unknownOpcode 0x5121) ∧
    decode 0x8008 = .error (.unknownOpcode 0x8008) ∧
    decode 0x800F = .error (.unknownOpcode 0x800F) ∧
    decode 0x9121 = .error (.unknownOpcode 0x9121) ∧
    decode 0xE19F = .error (.unknownOpcode 0xE19F) ∧
    decode 0xF056 = .error (.unknownOpcode 0xF056) ∧
    decode 0xFFFF = .error (.unknownOpcode 0xFFFF) := by
  refine ⟨?_, ?_, ?_, ?_, ?_, ?_, ?_, ?_, ?_⟩ <;> decide

theorem test_decode_truncated : decodeBytes [0x60] = .error .truncated := by decide

/-- The listings of programs P1 and P2 (R85). -/
theorem test_asm :
    (Instr.addVxKk 1 0xFF).asm = "ADD V1, 0xFF" ∧ (Instr.callAddr 0x20A).asm = "CALL 0x20A" ∧
    (Instr.ldVxI 2).asm = "LD V2, [I]" ∧ (Instr.ldBVx 10).asm = "LD B, VA" := by decide

/-! ### One step on a small state -/

/-- An empty port. -/
def port0 : Port 64 32 := ⟨Vector.replicate _ (Vector.replicate _ false), []⟩

/-- The start state of the vectors, with an empty frame buffer. -/
def start : State := { State.reset with port := port0 }

/-- The start state with some registers. -/
def regs (l : List (Reg × Byte)) : State := l.foldl (fun s p => s.setReg p.1 p.2) start

/-- A state with bytes in memory. -/
def holding (s : State) (a : Nat) (bs : List Byte) : State := { s with mem := s.mem.writeBytes a bs }

/-- What a STEP gives with a word stored at PC. -/
def after (w : Word) (s : State) : Result := step (holding s s.pc.toNat [highByte w, lowByte w])

/-- A view of a next state. -/
def seen {α : Type} (r : Result) (f : State → α) : Option α :=
  match r with
  | .next t => some (f t)
  | .fault _ => none
  | .refused _ => none

/-- The latch of a next state, and whether PC stayed. -/
def latched (w : Word) (s : State) : Option (FaultLatch × Bool) := seen (after w s) fun t => (t.fault, t.pc == s.pc)

/-- A frame buffer with given pixels lit. -/
def lit (l : List (Fin 64 × Fin 32)) : Port 64 32 :=
  ⟨Vector.ofFn fun px => Vector.ofFn fun py => decide ((px, py) ∈ l), []⟩

theorem test_cls : (seen (after 0x00E0 { start with port := lit [(5, 6)] }) fun t =>
    (t.port.pixel 5 6, t.port.calls, t.pc)) = some (false, [.clear], 0x202) := by decide +kernel  -- V96

/-- One subroutine entered. -/
def called (ret : Word) : State :=
  { start with pc := 0x30A, depth := 1, stack := start.stack.set 0 ret }

theorem test_ret : (seen (after 0x00EE (called 0x204)) fun t => (t.pc, t.sp, t.stack[0])) =
    some (0x204, -1, 0x204) := by decide  -- V21
theorem test_ret_underflow : latched 0x00EE start = some (⟨.stackUnderflow, 0x200, 0x00EE, 0⟩, true) := by decide  -- V22
theorem test_jp : (seen (after 0x1203 start) fun t => (t.pc, t.fault.code)) = some (0x203, .none) := by decide  -- V16
theorem test_call : (seen (after 0x2300 { start with pc := 0xFFE }) fun t => (t.pc, t.sp, t.stack[0])) =
    some (0x300, 0, 0x1000) := by decide  -- V20
theorem test_call_overflow : latched 0x2300 { start with depth := 16 } =
    some (⟨.stackOverflow, 0x200, 0x2300, 0⟩, true) := by decide  -- V19
theorem test_jp_v0 : (seen (after 0xBFFF (regs [(0, 0xFF)])) (·.pc)) = some 0x10FE := by decide  -- V25

theorem test_se_kk_equal : (seen (after 0x3A05 (regs [(10, 5)])) (·.pc)) = some 0x204 := by decide  -- V27
theorem test_se_kk_differs : (seen (after 0x3A05 (regs [(10, 6)])) (·.pc)) = some 0x202 := by decide  -- V28
theorem test_sne_kk_equal : (seen (after 0x4A05 (regs [(10, 5)])) (·.pc)) = some 0x202 := by decide  -- V29
theorem test_sne_kk_differs : (seen (after 0x4A05 (regs [(10, 6)])) (·.pc)) = some 0x204 := by decide  -- V30
theorem test_se_vy : (seen (after 0x5120 (regs [(1, 7), (2, 7)])) (·.pc)) = some 0x204 := by decide  -- V31
theorem test_sne_vy : (seen (after 0x9120 (regs [(1, 7), (2, 8)])) (·.pc)) = some 0x204 := by decide  -- V33

/-- The start state with registers and the next key mask. -/
def keyed (l : List (Reg × Byte)) (m : Word) : State :=
  { regs l with inputs := ⟨[], [m], [], [], 0⟩ }

theorem test_skp_held : (seen (after 0xE39E (keyed [(3, 5)] 0x0020)) fun t => (t.pc, t.port.calls)) =
    some (0x204, [.keys 0x0020]) := by decide  -- V34
theorem test_skp_no_key_16 : (seen (after 0xE39E (keyed [(3, 0x10)] 0xFFFF)) (·.pc)) = some 0x202 := by decide  -- V36
theorem test_sknp_held : (seen (after 0xE3A1 (keyed [(3, 5)] 0x0020)) (·.pc)) = some 0x202 := by decide  -- V37
theorem test_sknp_no_key_16 : (seen (after 0xE3A1 (keyed [(3, 0x10)] 0xFFFF)) (·.pc)) = some 0x204 := by decide  -- V38

/-- Vx, VF and PC after a step with V0 and V1 or VF preset. -/
def xf (w : Word) (x : Reg) (l : List (Reg × Byte)) : Option (Byte × Byte × Word) :=
  seen (after w (regs l)) fun t => (t.v[x], t.v[vf], t.pc)

theorem test_ld_kk : xf 0x6AFF 10 [] = some (0xFF, 0, 0x202) := by decide  -- V41
theorem test_add_kk : xf 0x70FF 0 [(0, 1), (15, 7)] = some (0, 7, 0x202) := by decide  -- V42
theorem test_add_kk_vf : xf 0x7F01 15 [(15, 0xFF)] = some (0, 0, 0x202) := by decide  -- V43
theorem test_ld_vy : xf 0x8120 1 [(2, 0x33)] = some (0x33, 0, 0x202) := by decide  -- V44
theorem test_or : xf 0x8121 1 [(1, 0x0F), (2, 0xF0), (15, 7)] = some (0xFF, 7, 0x202) := by decide  -- V45
theorem test_and : xf 0x8122 1 [(1, 0x3C), (2, 0x0F)] = some (0x0C, 0, 0x202) := by decide  -- V46
theorem test_xor : xf 0x8113 1 [(1, 0x5A)] = some (0, 0, 0x202) := by decide  -- V47
theorem test_add_carry : xf 0x8014 0 [(0, 0xFF), (1, 1)] = some (0, 1, 0x202) := by decide  -- V48
theorem test_add_vf_dest : xf 0x8F14 15 [(15, 0x10), (1, 2)] = some (0, 0, 0x202) := by decide  -- V52
theorem test_sub_equal : xf 0x8015 0 [(0, 5), (1, 5)] = some (0, 0, 0x202) := by decide  -- V55
theorem test_sub_vf_dest : xf 0x8F15 15 [(15, 9), (1, 3)] = some (1, 1, 0x202) := by decide  -- V57
theorem test_shr : xf 0x8006 0 [(0, 0xFF)] = some (0x7F, 1, 0x202) := by decide  -- V59
theorem test_shr_ignores_y : xf 0x80F6 0 [(0, 2)] = some (1, 0, 0x202) := by decide  -- V13
theorem test_subn : xf 0x8017 0 [(0, 9), (1, 3)] = some (0xFA, 0, 0x202) := by decide  -- V63
theorem test_subn_positive : xf 0x8017 0 [(0, 3), (1, 9)] = some (6, 1, 0x202) := by decide  -- V62
theorem test_shl : xf 0x800E 0 [(0, 0x7F)] = some (0xFE, 0, 0x202) := by decide  -- V66
theorem test_shl_vf_dest : xf 0x8F0E 15 [(15, 0x81)] = some (1, 1, 0x202) := by decide  -- V67
theorem test_rnd : (seen (after 0xC30F { start with inputs := ⟨[], [], [], [0xAB], 0⟩ }) fun t =>
    (t.v[3], t.port.calls)) = some (0x0B, [.random 0xAB]) := by decide  -- V68

/-- I and VF after a step. -/
def iAfter (w : Word) (i : Word) (l : List (Reg × Byte)) : Option (Word × Byte) :=
  seen (after w { regs l with i := i }) fun t => (t.i, t.v[vf])

theorem test_ld_i : iAfter 0xAFFF 0 [] = some (0x0FFF, 0) := by decide  -- V70
theorem test_add_i : iAfter 0xF21E 0x0FFF [(2, 1), (15, 7)] = some (0x1000, 7) := by decide  -- V72
theorem test_add_i_wraps : iAfter 0xF21E 0xFFFF [(2, 1)] = some (0, 0) := by decide  -- V73
theorem test_ld_f : iAfter 0xF729 0 [(7, 0xFF)] = some (0x04FB, 0) := by decide  -- V77

theorem test_bcd : (seen (after 0xF333 { regs [(3, 0xFF)] with i := 0xFFD }) fun t =>
    (t.mem.read 0xFFD, t.mem.read 0xFFE, t.mem.read 0xFFF)) = some (2, 5, 5) := by decide +kernel  -- V82
theorem test_bcd_out : latched 0xF333 { start with i := 0x2345 } =
    some (⟨.memoryOutOfBounds, 0x200, 0xF333, 0x2345⟩, true) := by decide  -- V85
theorem test_store : (seen (after 0xF355 { regs [(0, 0x11), (1, 0x22), (2, 0x33), (3, 0x44)] with i := 0x400 })
    fun t => (t.mem.readWord 0x400, t.mem.readWord 0x402)) = some (0x1122, 0x3300) := by decide +kernel  -- V86
theorem test_store_out : (seen (after 0xF255 { regs [(0, 0x11), (1, 0x22)] with i := 0xFFF }) fun t =>
    (t.fault, t.mem.read 0xFFF)) = some (⟨.memoryOutOfBounds, 0x200, 0xF255, 0x1000⟩, 0) := by decide +kernel  -- V89
theorem test_load : (seen (after 0xF265 (holding { start with i := 0x400 } 0x400 [0xAA, 0xBB, 0xCC])) fun t =>
    (t.v[0], t.v[1], t.v[2])) = some (0xAA, 0xBB, 0) := by decide +kernel  -- V91
theorem test_load_none : (seen (after 0xF065 { start with i := 0xFFFF }) fun t => (t.v[0], t.pc, t.faulted)) =
    some (0, 0x202, false) := by decide  -- V92, at an I no access could use
theorem test_block_count_inclusive : blockCount true 15 = 16 ∧ blockCount true 0 = 1 := by decide  -- V90, S8

theorem test_draw : (seen (after 0xD012 (regs [(0, 0x3E), (1, 0x1F)])) fun t =>
    ([(62, 31), (63, 31), (0, 31), (1, 31), (62, 0), (1, 0), (63, 0), (2, 31)].map fun p : Fin 64 × Fin 32 =>
      t.port.pixel p.1 p.2, t.v[vf], t.port.calls.length)) =
    some ([true, true, true, true, true, true, false, false], 0, 16) := by decide +kernel  -- V99
theorem test_draw_collision : (seen (after 0xD011 { start with port := lit [(0, 0)] }) fun t =>
    (t.port.pixel 0 0, t.port.pixel 1 0, t.v[vf])) = some (false, true, 1) := by decide +kernel  -- V101

theorem test_ld_dt_read : xf 0xF507 5 [] = some (0, 0, 0x202) ∧
    (seen (after 0xF507 { start with dt := 0x3C }) fun t => t.v[5]) = some 0x3C := by decide  -- V107
theorem test_ld_k_none : (seen (after 0xF30A { start with inputs := ⟨[], [], [none], [], 0⟩ }) fun t =>
    (t.pc, t.v[3], t.port.calls)) = some (0x200, 0, [.waitKey none]) := by decide  -- V108
theorem test_ld_k_some : (seen (after 0xF30A { start with inputs := ⟨[], [], [some 7], [], 0⟩ }) fun t =>
    (t.pc, t.v[3])) = some (0x202, 7) := by decide  -- V109
theorem test_ld_dt : (seen (after 0xF115 (regs [(1, 0x3C)])) (·.dt)) = some 0x3C := by decide  -- V110
theorem test_ld_st : (seen (after 0xF118 (regs [(1, 2)])) fun t => (t.st, t.soundOn)) = some (2, true) := by decide  -- V111

/-! ### Fetch, TICK, LOAD and the policies' alternatives -/

theorem test_fetch_last_word : (seen (after 0x6001 { start with pc := 0xFFE }) fun t => (t.v[0], t.pc)) =
    some (1, 0x1000) := by decide +kernel  -- V2
theorem test_fetch_odd : (seen (step { start with pc := 0xFFF }) (·.fault)) =
    some ⟨.misalignedPc, 0xFFF, 0, 0⟩ := by decide  -- V4
theorem test_fetch_past_memory : (seen (step { start with pc := 0x10FE }) (·.fault)) =
    some ⟨.memoryOutOfBounds, 0x10FE, 0, 0x10FE⟩ := by decide  -- V25
theorem test_odd_fetch_allowed : misaligned .fetch 0xFFF = false ∧ outOfRange 0xFFF 2 = some 0x1000 := by decide  -- V4
theorem test_tick : (({ start with dt := 2 } : State).tick.dt, ({ start with dt := 2 } : State).tick.st) =
    ((1, 0) : Byte × Byte) := by decide  -- V112
theorem test_load_odd : (start.load Config.fontBytes [0x12, 0x34, 0x56]).mem.readWord 0x202 = 0x5600 := by decide +kernel  -- V117
theorem test_rom_words_drop : romWords .drop [0x12, 0x34, 0x56] = [0x1234] := by decide  -- V117
theorem test_load_rewrites_font : ((holding start 0 [0xFF]).load Config.fontBytes []).mem.read 0 = 0xF0 := by decide +kernel  -- V122
theorem test_draw2_flag_or_result : ((regs [(15, 0x10)]).setFlaggedBy .draw2 vf 0x12 false).v[15] =
    if Config.freeFlagWins 0 then 0 else 0x12 := by
  simp [State.setFlaggedBy]
  rfl  -- V52 under draw2

/-! ### Witnesses: states and operands that meet the hypotheses of each obligation, at boundary values -/

/-- The start state with host actions decided. -/
def scheduled (as : List HostAction) : State := { start with inputs := ⟨as, [], [], [], 0⟩ }

/-- A FAULTED state. -/
def broken (as : List HostAction) : State := (scheduled as).raise .stackOverflow 0x2300 0

theorem witness_LoadPlacesRomAndResets :
    (scheduled [.load (List.replicate 3584 7)]).inputs.actions = [.load (List.replicate 3584 7)] ∧
    (List.replicate 3584 (7 : Byte)).length ≤ 3584 ∧ ([] : List Byte).length ≤ 3584 :=
  ⟨rfl, by rw [List.length_replicate], by decide⟩
theorem witness_LoadOfTooLongRomFaults :
    (scheduled [.load (List.replicate 3585 7)]).inputs.actions = [.load (List.replicate 3585 7)] ∧
    3584 < (List.replicate 3585 (7 : Byte)).length :=
  ⟨rfl, by rw [List.length_replicate]; decide⟩
theorem witness_TickMovesTimersTowardZero :
    (scheduled [.tick]).inputs.actions = [.tick] ∧ (scheduled [.tick]).faulted = false ∧
    (broken [.tick]).inputs.actions = [.tick] ∧ (broken [.tick]).faulted = true := by decide
theorem witness_StepIsTotal :
    start.nextAction ≠ .overlapped ∧ (scheduled [.overlapped]).nextAction = .overlapped := by decide

/-- A core at the last word of memory, `LD V0, 1`. -/
def lastWord : State := holding { start with pc := 0xFFE } 0xFFE [0x60, 0x01]

theorem witness_StepRunsDecodedInstruction :
    lastWord.nextAction = .step ∧ lastWord.faulted = false ∧ lastWord.pc.toNat % 2 = 0 ∧
    lastWord.pc.toNat + 1 ≤ 0xFFF ∧
    decodeBytes [lastWord.mem.read 0xFFE, lastWord.mem.read 0xFFF] = .ok (.ldVxKk 0 1, []) ∧
    (Instr.ldVxKk 0 1).wf = true := by decide +kernel
theorem witness_FetchAndDecodeFaultsInOrder :
    start.nextAction = .step ∧ start.faulted = false ∧
    (0xFFF : Word).toNat % 2 = 1 ∧ (0x1000 : Word).toNat % 2 = 0 ∧ 0xFFF < (0x1000 : Word).toNat + 1 ∧
    (0x0000 : Word).toNat = (start.mem.read 0x200).toNat * 256 + (start.mem.read 0x201).toNat ∧
    decode 0x0000 = .error (.unknownOpcode 0x0000) := by decide
theorem witness_FaultsArePrecise :
    start.nextAction = .step ∧ start.faulted = false ∧ ∃ t, step start = .next t ∧ t.faulted = true :=
  ⟨rfl, rfl, _, rfl, rfl⟩
theorem witness_FaultedCoreIsFrozen :
    (broken [.step]).faulted = true ∧ (broken [.step]).nextAction = .step ∧
    (broken [.tick]).faulted = true ∧ (broken [.tick]).nextAction = .tick := by decide
theorem witness_OnlyLoadLeavesFaulted :
    (broken [.load []]).faulted = true ∧ ∃ t, step (broken [.load []]) = .next t ∧
      t.fault ≠ (broken [.load []]).fault :=
  ⟨rfl, _, rfl, by decide⟩

/-- A core inside a subroutine, at an odd PC: one that meets the invariant away from reset. -/
def oddInside : State := { called 0x1000 with pc := 0x301 }

theorem witness_StepKeepsInvariant : CoreInv oddInside ∧ ∃ t, step oddInside = .next t ∧ t ≠ oddInside :=
  ⟨⟨by decide, by decide, by decide, by decide⟩, _, rfl, fun h => absurd (congrArg State.faulted h) (by decide)⟩
theorem witness_PlacedWordRunsNext :
    State.reset.mem.wf = true ∧ decodeTableWord 16 0x00E0 = some .cls := by decide
theorem witness_DecodeOfEncodeIsIdentity : (Instr.drwVxVyN 15 15 15).wf = true ∧ Instr.cls.wf = true := by decide
theorem witness_NoOpcodeMatchesTwoRows :
    (⟨.cls, 0xFFFF, 0x00E0⟩ : Row) ∈ table ∧ (0x00E0 : Word) &&& 0xFFFF = 0x00E0 ∧ table.reverse.Perm table :=
  ⟨by decide, by decide, List.reverse_perm _⟩
theorem witness_DecodedOperandsAreTheFields :
    decode 0x1FFF = .ok (.jpAddr 0xFFF) ∧ decode 0xFF07 = .ok (.ldVxDt 15) ∧
    decode 0x6FFF = .ok (.ldVxKk 15 0xFF) ∧ decode 0x5FF0 = .ok (.seVxVy 15 15) ∧
    decode 0xDFFF = .ok (.drwVxVyN 15 15 15) ∧ decode 0x00EE = .ok .ret := by
  refine ⟨?_, ?_, ?_, ?_, ?_, ?_⟩ <;> decide
theorem witness_OnlyShiftsIgnoreBits :
    decode 0xFF65 = .ok (.ldVxI 15) ∧ (∀ x, Instr.ldVxI 15 ≠ .shrVx x) ∧ ∀ x, Instr.ldVxI 15 ≠ .shlVx x :=
  ⟨by decide, by simp, by simp⟩
theorem witness_MemoryReadsLatestWrite :
    Memory.wf [(0x300, 7)] = true ∧ 0 < 4096 ∧ 4095 < 4096 ∧ 0 ≠ 4095 := by decide
theorem witness_EqualMemoriesAreEqualData :
    Memory.wf [(0x300, 7)] = true ∧ Memory.wf (Memory.write [] 0x300 7) = true ∧
    ∀ a < 4096, Memory.read [(0x300, 7)] a = (Memory.write [] 0x300 7).read a :=
  ⟨by decide, by decide, fun _ _ => rfl⟩
theorem witness_FetchSeesStoredBlock :
    start.mem.wf = true ∧ (0xFFE : Word).toNat + (2 : Reg).val ≤ 4096 ∧ (0xFFE : Word).toNat ≤ 0xFFE ∧
    0xFFE + 1 < (0xFFE : Word).toNat + (2 : Reg).val := by decide
theorem witness_CallPushesOrOverflows :
    ({ start with depth := 15 } : State).sp < 15 ∧ start.sp < 15 ∧ ({ start with depth := 16 } : State).sp = 15 := by
  decide
theorem witness_RetPopsOrUnderflows :
    ((0 : Fin 16).val : Int) = (called 0x204).sp ∧
    ((15 : Fin 16).val : Int) = ({ start with depth := 16 } : State).sp ∧ start.sp = -1 := by decide
theorem witness_ReturnUndoesCall :
    ({ start with depth := 15 } : State).sp < 15 ∧
    ∃ t, exec (.callAddr 0x300) { start with depth := 15 } = .next t ∧ t.faulted = false :=
  ⟨by decide, _, rfl, rfl⟩
theorem witness_KeySkipsTestOneMask :
    (keyed [(3, 15)] 0x8000).inputs.nextKeyMask = 0x8000 ∧ (keyed [(3, 15)] 0x8000).v[3].toNat < 16 ∧
    (0x8000 : Word).toNat / 2 ^ 15 % 2 = 1 ∧ ¬(keyed [(3, 16)] 0xFFFF).v[3].toNat < 16 := by decide
theorem witness_RandomByteIsMasked :
    ({ start with inputs := ⟨[], [], [], [0xAB], 0⟩ } : State).inputs.nextRandomByte = 0xAB := by decide
theorem witness_BcdStoresDigitsOrFaults :
    start.mem.wf = true ∧ ({ start with i := 0xFFD } : State).i.toNat + 2 ≤ 0xFFF ∧
    0xFFF < ({ start with i := 0xFFE } : State).i.toNat + 2 := by decide
theorem witness_BlockStoresOrFaults :
    start.mem.wf = true ∧ (0 : Reg).val = 0 ∧ (0xFF1 : Word).toNat + (15 : Reg).val - 1 ≤ 0xFFF ∧
    0 < (1 : Reg).val ∧ 0xFFF < (0x1000 : Word).toNat + (1 : Reg).val - 1 := by decide
theorem witness_BlockLoadsOrFaults :
    (0 : Reg).val = 0 ∧ (0xFFF : Word).toNat + (1 : Reg).val - 1 ≤ 0xFFF ∧
    0 < (15 : Reg).val ∧ 0xFFF < (0xFF2 : Word).toNat + (15 : Reg).val - 1 := by decide

/-- A state about to store V0 and V1. -/
def storing : State := { regs [(0, 0x11), (1, 0x22)] with i := 0x400 }

theorem witness_BlockRoundTrip :
    storing.mem.wf = true ∧ storing.faulted = false ∧ ∃ t u : State, exec (.ldIVx 2) storing = .next t ∧
      t.faulted = false ∧ u.mem = t.mem ∧ u.i = storing.i ∧ u.v[(0 : Reg)] ≠ storing.v[(0 : Reg)] :=
  ⟨by decide, rfl, _, { start with mem := storing.mem.writeBytes 0x400 [0x11, 0x22], i := 0x400 }, rfl, rfl, rfl, rfl,
    by decide⟩
theorem witness_DrawMakesCallsInOrder :
    (0 : Count).val = 0 ∧ ({ start with i := 0xFF1 } : State).i.toNat + (15 : Count).val - 1 ≤ 0xFFF := by decide
theorem witness_DrawPastMemoryFaults :
    0 < (15 : Count).val ∧ 0xFFF < ({ start with i := 0xFF2 } : State).i.toNat + (15 : Count).val - 1 ∧
    0 < (1 : Count).val ∧ 0xFFF < ({ start with i := 0x1000 } : State).i.toNat + (1 : Count).val - 1 := by decide

/-- The state after the first row of the glyph of 0 was drawn at (0, 0), V1 = 0. -/
def drawn (s : State) : State :=
  { s with port := (s.drawSprite (spriteRequests 64 32 s.mem 0 1 0 0)).port }

/-- Both cases of the collision: a sprite bit on a lit pixel, and a blank frame buffer. -/
theorem witness_DrawXorsSpriteAndReportsCollision :
    start.i.toNat + (1 : Count).val - 1 ≤ 0xFFF ∧ (start.mem.read (0 + 0)).getLsbD (7 - 0) = true ∧
    (lit [(0, 0)]).pixel 0 0 = true ∧ (∀ px py, start.port.pixel px py = false) ∧
    (∃ t, exec (.drwVxVyN 0 1 1) start = .next t) ∧
    ∃ t, exec (.drwVxVyN 0 1 1) { start with port := lit [(0, 0)] } = .next t :=
  ⟨by decide, by decide, by decide +kernel, by intro px py; simp [start, port0, Port.pixel], ⟨_, rfl⟩, ⟨_, rfl⟩⟩
theorem witness_DrawTwiceRestoresFrame :
    ∃ t w, start.i.toNat + (1 : Count).val - 1 ≤ 0xFFF ∧ exec (.drwVxVyN 0 1 1) start = .next t ∧
      (drawn start).v[(0 : Reg)] = start.v[(0 : Reg)] ∧ (drawn start).v[(1 : Reg)] = start.v[(1 : Reg)] ∧
      (drawn start).mem = t.mem ∧ (drawn start).i = t.i ∧ (drawn start).port = t.port ∧
      exec (.drwVxVyN 0 1 1) (drawn start) = .next w ∧
      (∀ px py, start.port.pixel px py = false) ∧ start.mem.read (start.i.toNat + 0) ≠ 0 :=
  ⟨_, _, by decide, rfl, rfl, rfl, rfl, rfl, rfl, rfl, by intro px py; simp [start, port0, Port.pixel], by decide⟩
theorem witness_KeyWaitTakesKeyOrStays :
    ({ start with inputs := ⟨[], [], [none], [], 0⟩ } : State).inputs.nextKeyPress = none ∧
    ({ start with inputs := ⟨[], [], [some 15], [], 0⟩ } : State).inputs.nextKeyPress = some 15 := by decide
theorem witness_PcAdvancesByClass :
    start.faulted = false ∧ (∃ t, exec .ret start = .next t ∧ t.faulted = true) ∧
    (∃ t, exec .ret (called 0x204) = .next t ∧ t.faulted = false) ∧
    ∃ t, exec .cls start = .next t ∧ t.faulted = false :=
  ⟨rfl, ⟨_, rfl, rfl⟩, ⟨_, rfl, rfl⟩, ⟨_, rfl, rfl⟩⟩
theorem witness_OnlyCallAndRetTouchStack :
    (∃ t, exec .ret (called 0x204) = .next t) ∧ (∀ nnn, Instr.ret ≠ .callAddr nnn) ∧ Instr.cls ≠ .ret :=
  ⟨⟨_, rfl⟩, by simp, by simp⟩
theorem witness_WritersOfIndexAndTimers :
    (∃ t, exec (.ldDtVx 1) (regs [(1, 2)]) = .next t ∧ t.dt ≠ start.dt) ∧
    (∀ nnn, Instr.ldDtVx 1 ≠ .ldIAddr nnn) ∧ (∀ x, Instr.ldDtVx 1 ≠ .addIVx x) ∧
    (∀ x, Instr.ldDtVx 1 ≠ .ldFVx x) ∧ (∀ x, Instr.ldDtVx 1 ≠ .ldStVx x) ∧ ∀ x, Instr.cls ≠ .ldDtVx x :=
  ⟨⟨_, rfl, by decide⟩, by simp, by simp, by simp, by simp, by simp⟩
theorem witness_OnlyStoresWriteMemory :
    (∃ t, exec (.ldVxI 2) storing = .next t) ∧ (∀ x, Instr.ldVxI 2 ≠ .ldBVx x) ∧ ∀ x, Instr.ldVxI 2 ≠ .ldIVx x :=
  ⟨⟨_, rfl⟩, by simp, by simp⟩
theorem witness_OnlyFlagWritersTouchVf :
    ∃ t, exec (.addVxVy 0 1) (regs [(0, 0xFF), (1, 1)]) = .next t ∧
      t.v[vf] ≠ (regs [(0, 0xFF), (1, 1)]).v[vf] :=
  ⟨_, rfl, by decide⟩

/-- A core about to clear the screen. -/
def clearing : State := holding start 0x200 [0x00, 0xE0]

theorem witness_PortCallsOnlyWhereStated :
    ∃ t, step clearing = .next t ∧ t.port ≠ clearing.port :=
  ⟨{ clearing with port := clearing.port.clear, pc := 0x202 }, rfl,
    fun h => absurd (congrArg (fun p : Port 64 32 => p.calls.length) h) (by decide)⟩
theorem witness_NoInstructionReadsSt :
    ∃ t, exec (.ldVxDt 1) { start with st := 5 } = .next t :=
  ⟨_, rfl⟩

/-- A font table that is not the default one. -/
def otherFont : Config.FontTable := Vector.replicate 80 0x81

theorem test_load_other_font :
    (start.load otherFont [0x60, 0x01]).mem.read 0x4F = 0x81 ∧ (start.load otherFont [0x60, 0x01]).mem.read 0x50 = 0 ∧
    (start.load otherFont [0x60, 0x01]).mem.readWord 0x200 = 0x6001 := by decide +kernel  -- R40, R270
theorem witness_LoadCopiesAnyFontTable :
    (0 < 80 ∧ 79 < 80) ∧ (80 < 4096 ∧ 80 ≤ 80 ∧ 80 < 0x200) ∧ ([] : List Byte).length ≤ 3584 ∧
    (List.replicate 3584 (7 : Byte)).length ≤ 3584 ∧ 3584 < (List.replicate 3585 (7 : Byte)).length :=
  ⟨by decide, by decide, by decide, by rw [List.length_replicate], by rw [List.length_replicate]; decide⟩

/-- A core loaded under that table, about to look up the glyph of F. -/
def loadedOther : State := (start.load otherFont []).setReg 7 15

theorem witness_LoadFontAddressesGlyph :
    ∃ t, runAction otherFont (.load []) start = .next t ∧ (∀ a < 80, loadedOther.mem.read a = t.mem.read a) ∧
      loadedOther.v[(7 : Reg)].toNat < 16 :=
  ⟨_, rfl, fun _ _ => rfl, by decide⟩

/-- On a display of 4 × 2 the row 0xF8 meets the pixel (0, 0) twice: the fifth call clears it again and collides. -/
theorem test_draw_small_display :
    ((⟨Vector.replicate 4 (Vector.replicate 2 false), []⟩ : Port 4 2).drawAll
      (spriteRequests 4 2 [(0x300, 0xF8)] 0x300 1 0 0)).2 = true := by decide +kernel  -- R191, R252
theorem witness_SpriteXorsOnAnyLargeEnoughDisplay :
    8 ≤ 8 ∧ (15 : Count).val ≤ 15 ∧ (8 ≤ 64 ∧ (15 : Count).val ≤ 32) := by decide

end Sys2Proof.Tests
end

