-- ==== Sys2Proof/Proofs/Display.lean ====
section
/-! PROOFS. A clear and a sprite's draws on a display of any size (44_display.md R190 to R192, 60_exceptions.md R250 to
R252), from the laws of the port. -/

namespace Sys2Proof.Machine

variable {w h : Nat}

/-- The calls of a list of draws follow those made before, and there is one for each request. -/
theorem Port.drawAll_calls_append (p : Port w h) (rs : List (PixelRequest w h)) :
    (p.drawAll rs).1.calls.length = p.calls.length + rs.length ∧
    (p.drawAll rs).1.calls.take p.calls.length = p.calls := by
  obtain ⟨cs, happ, hlen, -⟩ := p.drawAll_calls rs
  simp [happ, hlen]

/-- The call of the `k`-th request, answered from the pixels that the calls before it left. -/
theorem Port.drawAll_calls_get (p : Port w h) {rs : List (PixelRequest w h)} {k : Nat} (hk : k < rs.length) :
    (p.drawAll rs).1.calls[p.calls.length + k]? = some (.draw rs[k].bit rs[k].px rs[k].py
      ((p.drawAll (rs.take k)).1.pixel rs[k].px rs[k].py && rs[k].bit)) := by
  obtain ⟨cs, happ, -, hget⟩ := p.drawAll_calls rs
  rw [happ, List.getElem?_append_right (Nat.le_add_right ..), Nat.add_sub_cancel_left, hget k hk]

/-- The draws collide exactly when one of the calls they add answers 1. -/
theorem Port.drawAll_collides_iff_call (p : Port w h) (rs : List (PixelRequest w h)) :
    (p.drawAll rs).2 = true ↔
      ∃ k b px py, p.calls.length ≤ k ∧ (p.drawAll rs).1.calls[k]? = some (.draw b px py true) := by
  rw [p.drawAll_collides rs]
  constructor
  · rintro ⟨k, hk, hans⟩
    exact ⟨p.calls.length + k, _, _, _, Nat.le_add_right .., by rw [p.drawAll_calls_get hk, hans]⟩
  · rintro ⟨k, b, px, py, hle, hcall⟩
    obtain ⟨j, rfl⟩ := Nat.exists_eq_add_of_le hle
    obtain ⟨hbound, -⟩ := List.getElem?_eq_some_iff.mp hcall
    rw [(p.drawAll_calls_append rs).1] at hbound
    have hj : j < rs.length := by omega
    rw [p.drawAll_calls_get hj, Option.some.injEq, PortCall.draw.injEq] at hcall
    exact ⟨j, hj, hcall.2.2.2⟩

/-- A 1-bit lies on a pixel that is 1: said of the requests, and said of the pixels. -/
theorem exists_lit_request_iff (p : Port w h) (rs : List (PixelRequest w h)) :
    (∃ r ∈ rs, r.bit = true ∧ p.pixel r.px r.py = true) ↔
      ∃ px py, (∃ r ∈ rs, r.at px py = true ∧ r.bit = true) ∧ p.pixel px py = true := by
  simp only [PixelRequest.at, Bool.and_eq_true, decide_eq_true_eq]
  constructor
  · rintro ⟨r, hr, hbit, hp⟩
    exact ⟨r.px, r.py, ⟨r, hr, ⟨rfl, rfl⟩, hbit⟩, hp⟩
  · rintro ⟨_, _, ⟨r, hr, ⟨rfl, rfl⟩, hbit⟩, hp⟩
    exact ⟨r, hr, hbit, hp⟩

variable [NeZero w] [NeZero h]

/-- Where the request for a sprite bit lies: its coordinates wrapped around both edges (R192). -/
theorem pixelRequest_at (sprite bx by_ : Byte) (row col : Nat) (px : Fin w) (py : Fin h) :
    (pixelRequest w h sprite bx by_ row col).at px py =
      (px.val == (bx.toNat + col) % w && py.val == (by_.toNat + row) % h) := by
  simp [PixelRequest.at, pixelRequest, Fin.ext_iff, Bool.beq_eq_decide_eq]

/-- A pixel is XORed with every bit of the sprite that lies on it. -/
theorem Port.drawAll_sprite_pixel (p : Port w h) (m : Memory) (base n : Nat) (bx by_ : Byte) (px : Fin w)
    (py : Fin h) :
    (p.drawAll (spriteRequests w h m base n bx by_)).1.pixel px py =
      (p.pixel px py ^^ decide (((List.range n).map fun row => (List.range 8).countP fun col =>
        (m.read (base + row)).getLsbD (7 - col) && px.val == (bx.toNat + col) % w &&
          py.val == (by_.toNat + row) % h).sum % 2 = 1)) := by
  have hbit : ∀ row col, ((pixelRequest w h (m.read (base + row)) bx by_ row col).at px py &&
      (pixelRequest w h (m.read (base + row)) bx by_ row col).bit) =
      ((m.read (base + row)).getLsbD (7 - col) && px.val == (bx.toNat + col) % w &&
        py.val == (by_.toNat + row) % h) := by
    intro row col
    rw [pixelRequest_at, Bool.and_comm, Bool.and_assoc]
    rfl
  rw [p.drawAll_pixel, flips_countP, spriteRequests, List.countP_flatMap]
  simp only [Function.comp_def, List.countP_map, hbit]

/-- A 1-bit among the requests of a sprite: a 1-bit at a row and a column of the sprite. -/
theorem exists_spriteRequest_at_iff {m : Memory} {base n : Nat} {bx by_ : Byte} {px : Fin w} {py : Fin h} :
    (∃ r ∈ spriteRequests w h m base n bx by_, r.at px py = true ∧ r.bit = true) ↔
      ∃ row < n, ∃ col < 8, (m.read (base + row)).getLsbD (7 - col) = true ∧
        px.val = (bx.toNat + col) % w ∧ py.val = (by_.toNat + row) % h := by
  constructor
  · rintro ⟨r, hr, hat, hbit⟩
    obtain ⟨row, hrow, col, hcol, rfl⟩ := mem_spriteRequests.mp hr
    rw [pixelRequest_at, Bool.and_eq_true, beq_iff_eq, beq_iff_eq] at hat
    exact ⟨row, hrow, col, hcol, hbit, hat⟩
  · rintro ⟨row, hrow, col, hcol, hbit, hat⟩
    refine ⟨_, mem_spriteRequests.mpr ⟨row, hrow, col, hcol, rfl⟩, ?_, hbit⟩
    rwa [pixelRequest_at, Bool.and_eq_true, beq_iff_eq, beq_iff_eq]

end Sys2Proof.Machine

namespace Sys2Proof.Proofs

open Sys2Proof.Machine

/-- Settles O58: the laws of a list of draws, read at the request of each row and column of the sprite. -/
theorem portOperationsOnAnyDisplaySize : Obligations.PortOperationsOnAnyDisplaySize := by
  unfold Obligations.PortOperationsOnAnyDisplaySize
  intro w h _ _ p m base n bx by_ rs q bit
  have hlen : rs.length = 8 * n := spriteRequests_length m base n bx by_
  obtain ⟨hcalls, hkept⟩ := p.drawAll_calls_append rs
  refine ⟨⟨p.clear_calls, p.clear_pixel⟩, hlen ▸ hcalls, hkept, ?_, p.drawAll_collides_iff_call rs,
    p.drawAll_sprite_pixel m base n bx by_⟩
  intro row hrow col hcol
  have hk : 8 * row + col < rs.length := by omega
  have hreq : rs[8 * row + col] = pixelRequest w h (m.read (base + row)) bx by_ row col :=
    (List.getElem?_eq_some_iff.mp (spriteRequests_get m base n bx by_ hrow hcol)).2
  have hcall := p.drawAll_calls_get hk
  rw [hreq, ← Nat.add_assoc] at hcall
  exact ⟨_, _, rfl, rfl, hcall⟩

/-- Settles O59: on a display that large the pixels of a sprite are distinct, so no bit meets what another has drawn. -/
theorem spriteXorsOnAnyLargeEnoughDisplay : Obligations.SpriteXorsOnAnyLargeEnoughDisplay := by
  unfold Obligations.SpriteXorsOnAnyLargeEnoughDisplay
  intro w h _ _ p m base n bx by_ hw hn q lit
  have hd := spriteRequests_distinct m base bx by_ hw hn
  have hflip : ∀ px py, flips (spriteRequests w h m base n bx by_) px py = true ↔ lit px py := fun px py =>
    (flips_iff hd).trans exists_spriteRequest_at_iff
  refine ⟨fun px py => ⟨fun hlit => ?_, fun hlit => ?_⟩, ?_⟩
  · rw [p.drawAll_pixel, (hflip px py).mpr hlit, Bool.xor_true]
  · rw [p.drawAll_pixel, Bool.eq_false_iff.mpr (mt (hflip px py).mp hlit), Bool.xor_false]
  · rw [p.drawAll_collision hd, exists_lit_request_iff]
    simp only [exists_spriteRequest_at_iff, lit]

end Sys2Proof.Proofs
end

/-! PROOFS. What every instruction and every step keeps of the state (10_state.md R24 to R41), and the font table that
`LOAD` copies, from the cases of an instruction, of a step and of `LOAD`. -/

namespace Sys2Proof.Machine

/-! ### The fields that only a few named instructions write -/

/-- What an instruction leaves of the fields that only a few named instructions write (10_state.md R27, R32 to R35,
20_memory.md R54). -/
structure ExecFrame (i : Instr) (s t : State) : Prop where
  stack : (∀ nnn, i ≠ .callAddr nnn) → t.stack = s.stack
  depth : (∀ nnn, i ≠ .callAddr nnn) → i ≠ .ret → t.depth = s.depth
  index : (∀ nnn, i ≠ .ldIAddr nnn) → (∀ x, i ≠ .addIVx x) → (∀ x, i ≠ .ldFVx x) → t.i = s.i
  dt : (∀ x, i ≠ .ldDtVx x) → t.dt = s.dt
  st : (∀ x, i ≠ .ldStVx x) → t.st = s.st
  mem : (∀ x, i ≠ .ldBVx x) → (∀ x, i ≠ .ldIVx x) → t.mem = s.mem

theorem takeKey_frame (i : Instr) (s : State) (x : Reg) (k : Option Key) :
    ExecFrame i s (s.askWaitKey.takeKey x k) := by
  cases k <;> constructor <;> intros <;> rfl

theorem raise_frame (i : Instr) (s : State) (c : FaultCode) (o a : Word) : ExecFrame i s (s.raise c o a) := by
  constructor <;> intros <;> rfl

theorem completes_frame {i : Instr} {s t : State} (h : Completes i s t) : ExecFrame i s t := by
  cases i <;> simp only [Completes] at h
  case ret | callAddr | drwVxVyN | ldBVx | ldIVx | ldVxI => obtain ⟨_, rfl⟩ := h; constructor <;> simp
  case ldVxK => subst h; exact takeKey_frame ..
  all_goals (subst h; constructor <;> simp)

theorem exec_frame {i : Instr} {s t : State} (h : exec i s = .next t) : ExecFrame i s t := by
  rcases exec_inv h with hc | hr
  · exact completes_frame hc
  · obtain ⟨c, a, -, rfl⟩ := raisesOwn_raise hr
    exact raise_frame ..

/-! ### PC (10_state.md R29, R31) -/

theorem addrWord_toNat (nnn : Addr) : (addrWord nnn).toNat = nnn.toNat := by
  have := nnn.isLt
  simp only [addrWord, BitVec.toNat_setWidth]
  omega

/-- The target of `JP V0` does not wrap (40_control.md R103). -/
theorem addrWord_add_byteWord_toNat (nnn : Addr) (b : Byte) :
    (addrWord nnn + byteWord b).toNat = nnn.toNat + b.toNat := by
  have := nnn.isLt
  have := b.isLt
  simp only [BitVec.toNat_add, addrWord, byteWord, BitVec.toNat_setWidth]
  omega

theorem State.skipIf_pc_cases (s : State) (c : Bool) :
    (s.skipIf c).pc = s.pc + 2 ∨ (s.skipIf c).pc = s.pc + 4 := by
  cases c
  · exact .inl rfl
  · exact .inr rfl

theorem State.takeKey_pc_cases (s : State) (x : Reg) (k : Option Key) :
    (s.takeKey x k).pc = s.pc + 2 ∨ (s.takeKey x k).pc = s.pc := by
  cases k
  · exact .inr rfl
  · exact .inl rfl

/-- Where an instruction that completes leaves PC, by its class (10_state.md R29). -/
def PcByClass (i : Instr) (s t : State) : Prop :=
  match i with
  | .jpAddr nnn | .callAddr nnn => t.pc.toNat = nnn.toNat
  | .jpV0Addr nnn => t.pc.toNat = nnn.toNat + s.v[0].toNat
  | .ret => ∃ j : Fin 16, (j.val : Int) = s.sp ∧ t.pc = s.stack[j]
  | .seVxKk _ _ | .sneVxKk _ _ | .seVxVy _ _ | .sneVxVy _ _ | .skpVx _ | .sknpVx _ =>
    t.pc = s.pc + 2 ∨ t.pc = s.pc + 4
  | .ldVxK _ => t.pc = s.pc + 2 ∨ t.pc = s.pc
  | _ => t.pc = s.pc + 2

theorem completes_pc {i : Instr} {s t : State} (h : Completes i s t) : PcByClass i s t := by
  cases i <;> simp only [Completes] at h <;> simp only [PcByClass]
  case jpAddr nnn => rw [h]; exact addrWord_toNat nnn
  case callAddr nnn => obtain ⟨_, rfl⟩ := h; exact addrWord_toNat nnn
  case jpV0Addr nnn => rw [h]; exact addrWord_add_byteWord_toNat nnn _
  case ret =>
    obtain ⟨hpos, rfl⟩ := h
    exact ⟨⟨s.depth.val - 1, by omega⟩, by simp only [State.sp]; omega, rfl⟩
  case seVxKk | sneVxKk | seVxVy | sneVxVy | skpVx | sknpVx => rw [h]; exact State.skipIf_pc_cases ..
  case ldVxK => rw [h]; exact State.takeKey_pc_cases ..
  case drwVxVyN | ldBVx | ldIVx | ldVxI => rw [h.2]; rfl
  all_goals (rw [h]; rfl)

/-- The bound of R31: from a PC that was fetched from, the farthest PC is `JP V0`'s 0xFFF + 0xFF. -/
theorem PcByClass.le {i : Instr} {s t : State} (h : PcByClass i s t) (hpc : s.pc.toNat + 2 ≤ 4096)
    (hslots : ∀ j : Fin 16, s.stack[j].toNat ≤ 0x1000) : t.pc.toNat ≤ 0x10FE := by
  have hnext : (s.pc + 2).toNat ≤ 0x10FE := by bv_omega
  have hskip : (s.pc + 4).toNat ≤ 0x10FE := by bv_omega
  cases i <;> simp only [PcByClass] at h
  case jpAddr nnn | callAddr nnn => have := nnn.isLt; omega
  case jpV0Addr nnn => have := nnn.isLt; have := s.v[0].isLt; omega
  case ret => obtain ⟨j, -, hj⟩ := h; have := hslots j; rw [hj]; omega
  case seVxKk | sneVxKk | seVxVy | sneVxVy | skpVx | sknpVx => rcases h with h | h <;> rwa [h]
  case ldVxK => rcases h with h | h <;> rw [h] <;> omega
  all_goals rwa [h]

/-! ### The general registers -/

/-- A write to Vx changes no other register. -/
theorem State.dest_of_setReg_changes {s : State} {x r : Reg} {b : Byte} (h : (s.setReg x b).v[r] ≠ s.v[r]) :
    x = r := by
  rw [State.setReg_get] at h
  by_contra hne
  exact h (if_neg fun hr => hne hr.symm)

/-- The key wait changes no register but Vx. -/
theorem State.dest_of_takeKey_changes {s : State} {x r : Reg} {k : Option Key}
    (h : (s.takeKey x k).v[r] ≠ s.v[r]) : x = r := by
  cases k with
  | none => exact absurd rfl h
  | some k => exact State.dest_of_setReg_changes h

/-- The block load never includes VF, since its count is x, at most 15 (43_index_memory.md R170). -/
theorem State.loadBlock_vf (s : State) (base : Nat) (x : Reg) : (s.loadBlock base x.val).v[vf] = s.v[vf] := by
  rw [State.loadBlock_get]
  exact if_neg (Nat.not_lt.mpr (Nat.le_of_lt_succ x.isLt))

/-! ### The sound timer, which no operation reads (10_state.md R35) -/

theorem State.pop?_withSt (s : State) (b : Byte) :
    { s with st := b }.pop? = s.pop?.map fun p => (p.1, { p.2 with st := b }) := by
  unfold State.pop?
  split <;> rfl

theorem State.push?_withSt (s : State) (w : Word) (b : Byte) :
    { s with st := b }.push? w = (s.push? w).map fun t => { t with st := b } := by
  unfold State.push?
  split <;> rfl

theorem checkedAccess_withSt {i : Instr} {n : Nat} {s e t : State} (b : Byte) (h : checkedAccess i n s e = .next t) :
    checkedAccess i n { s with st := b } { e with st := b } = .next { t with st := b } := by
  simp only [checkedAccess] at h ⊢
  cases hr : outOfRange s.i.toNat n <;> rw [hr] at h <;> cases h <;> rfl

/-- An instruction that does not write ST commutes with a change of ST. -/
theorem exec_withSt {i : Instr} {s t : State} (b : Byte) (hi : ∀ x, i ≠ .ldStVx x) (h : exec i s = .next t) :
    exec i { s with st := b } = .next { t with st := b } := by
  cases i
  case ret =>
    simp only [exec, execRet, State.pop?_withSt] at h ⊢
    cases hp : s.pop? <;> rw [hp] at h <;> cases h <;> rfl
  case callAddr nnn =>
    simp only [exec, execCallAddr, State.push?_withSt] at h ⊢
    cases hp : s.push? (s.pc + 2) <;> rw [hp] at h <;> cases h <;> rfl
  case drwVxVyN | ldBVx | ldIVx | ldVxI => exact checkedAccess_withSt b h
  case ldVxK x =>
    cases h
    simp only [exec, execLdVxK]
    cases hk : s.inputs.nextKeyPress <;> rfl
  case ldStVx x => exact absurd rfl (hi x)
  all_goals (cases h; rfl)

/-! ### LOAD under any font table (70_reset_and_hazards.md R270, R272) -/

/-- A ROM that fits, with its padding byte, written over the font image. The padding byte is the 0 that stood there. -/
theorem fontImage_rom_spec (font : Config.FontTable) {rom : List Byte} (hfit : rom.length ≤ 3584) :
    let m := (fontImage font).writeBytes 0x200 (rom ++ List.replicate (rom.length % 2) 0)
    m.wf = true ∧ (∀ k, (h : k < rom.length) → m.read (0x200 + k) = rom[k]) ∧
      ∀ a, a < 0x200 ∨ 0x200 + rom.length ≤ a → m.read a = byteBeforeRom font a := by
  intro m
  have hlen : (rom ++ List.replicate (rom.length % 2) (0 : Byte)).length = rom.length + rom.length % 2 := by simp
  obtain ⟨hfont, hbefore⟩ := fontImage_spec font
  obtain ⟨hwf, hread⟩ := Memory.writeBytes_spec hfont (a := 0x200)
    (bs := rom ++ List.replicate (rom.length % 2) 0) (by omega)
  refine ⟨hwf, fun k hk => ?_, fun a ha => ?_⟩
  · rw [hread, dif_pos (by omega)]
    simp [List.getElem_append_left, hk]
  · rw [hread]
    split
    next hin =>
      rw [List.getElem_append_right (by omega), List.getElem_replicate, byteBeforeRom_zero (by omega)]
    next => exact hbefore a

/-- Memory after `LOAD`: canonical, the bytes of a ROM that fits, and elsewhere the table and zeros. -/
theorem State.load_mem_spec (font : Config.FontTable) (s : State) (rom : List Byte) :
    (s.load font rom).mem.wf = true ∧
    (rom.length ≤ 3584 → ∀ k, (h : k < rom.length) → (s.load font rom).mem.read (0x200 + k) = rom[k]) ∧
    ∀ a, a < 0x200 ∨ 0x200 + rom.length ≤ a ∨ 3584 < rom.length →
      (s.load font rom).mem.read a = byteBeforeRom font a := by
  rcases s.load_cases font rom with ⟨hlong, heq⟩ | ⟨hfit, heq⟩
  · obtain ⟨hwf, hread⟩ := fontImage_spec font
    rw [heq]
    exact ⟨hwf, fun h => absurd h (by omega), fun a _ => hread a⟩
  · obtain ⟨hwf, hrom, hother⟩ := fontImage_rom_spec font hfit
    rw [heq]
    exact ⟨hwf, fun _ => hrom, fun a ha => hother a (by omega)⟩

theorem State.load_read_font (font : Config.FontTable) (s : State) (rom : List Byte) {a : Nat} (ha : a < 80) :
    font[a]? = some ((s.load font rom).mem.read a) := by
  obtain ⟨-, -, hother⟩ := s.load_mem_spec font rom
  rw [hother a (.inl (by omega))]
  exact byteBeforeRom_font ha

theorem State.load_fault (font : Config.FontTable) (s : State) (rom : List Byte) :
    (s.load font rom).fault =
      if rom.length ≤ 3584 then FaultLatch.clear else ⟨.memoryOutOfBounds, 0x200, 0x0000, 0x1000⟩ := by
  rcases s.load_cases font rom with ⟨hlong, heq⟩ | ⟨hfit, heq⟩
  · rw [heq, if_neg (by omega)]; rfl
  · rw [heq, if_pos hfit]; rfl

/-- What `LOAD` does beside memory and the latch: the core registers reset, the port and the inputs kept (R275). -/
theorem State.load_frame (font : Config.FontTable) (s : State) (rom : List Byte) :
    s.load font rom = { State.reset with
      mem := (s.load font rom).mem, fault := (s.load font rom).fault, port := s.port, inputs := s.inputs } := by
  rcases s.load_cases font rom with ⟨-, heq⟩ | ⟨-, heq⟩ <;> rw [heq] <;> rfl

/-- A glyph's address does not wrap (43_index_memory.md R173). -/
theorem glyphAddress_toNat (b : Byte) : (glyphAddress b).toNat = 5 * b.toNat := by
  have := b.isLt
  simp only [glyphAddress, byteWord, BitVec.toNat_mul, BitVec.toNat_setWidth, BitVec.toNat_ofNat,
    Config.glyphBytes]
  omega

/-! ### The invariant of the core, kept by each part of a step -/

theorem State.reset_coreInv : CoreInv State.reset :=
  ⟨Memory.empty_wf, by decide, by decide, by decide⟩

/-- The invariant speaks of memory, PC, the slots and the latch only. -/
theorem CoreInv.of_eq {s t : State} (hs : CoreInv s) (hmem : t.mem = s.mem) (hpc : t.pc = s.pc)
    (hstack : t.stack = s.stack) (hfault : t.fault = s.fault) : CoreInv t :=
  ⟨hmem ▸ hs.mem, hpc ▸ hs.pc, hstack ▸ hs.slots, hfault ▸ hs.latch⟩

theorem CoreInv.raise {s : State} (hs : CoreInv s) {c : FaultCode} {o a : Word}
    (hlatch : FaultLatch.consistent ⟨c, s.pc, o, a⟩ = true) : CoreInv (s.raise c o a) :=
  ⟨hs.mem, hs.pc, hs.slots, hlatch⟩

theorem CoreInv.tick {s : State} (hs : CoreInv s) : CoreInv s.tick := by
  unfold State.tick
  split
  · exact hs
  · exact hs.of_eq rfl rfl rfl rfl

theorem State.load_coreInv (font : Config.FontTable) (s : State) (rom : List Byte) : CoreInv (s.load font rom) := by
  have hframe := s.load_frame font rom
  refine ⟨(s.load_mem_spec font rom).1, ?_, ?_, ?_⟩
  · rw [hframe]; exact State.reset_coreInv.pc
  · rw [hframe]; exact State.reset_coreInv.slots
  · rw [s.load_fault]
    split <;> decide

theorem completes_mem_wf {i : Instr} {s t : State} (h : Completes i s t) (hs : s.mem.wf = true) :
    t.mem.wf = true := by
  by_cases hb : ∃ x, i = .ldBVx x
  · obtain ⟨x, rfl⟩ := hb
    obtain ⟨hin, rfl⟩ := h
    exact (Memory.writeBytes_spec hs hin).1
  by_cases hi : ∃ x, i = .ldIVx x
  · obtain ⟨x, rfl⟩ := hi
    obtain ⟨hin, rfl⟩ := h
    have hlen := s.block_length (c := x.val) (by omega)
    rcases hin with h0 | hin
    · have hnil : s.block x.val = [] := List.eq_nil_of_length_eq_zero (hlen.trans h0)
      rw [State.next_mem, hnil]
      exact hs
    · exact (Memory.writeBytes_spec hs (by rwa [hlen])).1
  · rw [(completes_frame h).mem (not_exists.mp hb) (not_exists.mp hi)]
    exact hs

/-- The slot that `CALL` writes is P + 2, of an even P that was fetched from (10_state.md R30, R31). -/
theorem completes_slots {i : Instr} {s t : State} (h : Completes i s t) (heven : s.pc.toNat % 2 = 0)
    (hpc : s.pc.toNat + 2 ≤ 4096) (hs : ∀ j : Fin 16, s.stack[j].toNat % 2 = 0 ∧ s.stack[j].toNat ≤ 0x1000) :
    ∀ j : Fin 16, t.stack[j].toNat % 2 = 0 ∧ t.stack[j].toNat ≤ 0x1000 := by
  by_cases hi : ∃ nnn, i = .callAddr nnn
  · obtain ⟨nnn, rfl⟩ := hi
    obtain ⟨hdepth, rfl⟩ := h
    intro j
    simp only [Fin.getElem_fin, Vector.getElem_set]
    split
    · have hret : (s.pc + 2).toNat = s.pc.toNat + 2 := by bv_omega
      omega
    · exact hs j
  · rw [(completes_frame h).stack (not_exists.mp hi)]
    exact hs

theorem CoreInv.completes {i : Instr} {s t : State} (hs : CoreInv s) (heven : s.pc.toNat % 2 = 0)
    (hpc : s.pc.toNat + 2 ≤ 4096) (h : Completes i s t) : CoreInv t where
  mem := completes_mem_wf h hs.mem
  pc := (completes_pc h).le hpc fun j => (hs.slots j).2
  slots := completes_slots h heven hpc hs.slots
  latch := by rw [completes_fault h]; exact hs.latch

/-- The record of an access past 0xFFF (20_memory.md R55): its address is not inside memory. -/
theorem consistent_memoryOutOfBounds (pc opcode base : Word) :
    FaultLatch.consistent ⟨.memoryOutOfBounds, pc, opcode, BitVec.ofNat 16 (max base.toNat 4096)⟩ = true := by
  have := base.isLt
  simp only [FaultLatch.consistent, decide_eq_true_eq, BitVec.toNat_ofNat, Config.memSize]
  omega

/-- The record of a fetch from an odd PC (60_exceptions.md R231). -/
theorem consistent_misalignedPc {pc : Word} (hodd : pc.toNat % 2 = 1) :
    FaultLatch.consistent ⟨.misalignedPc, pc, 0, 0⟩ = true := by
  simp [FaultLatch.consistent, BitVec.getLsbD, Nat.testBit_zero, hodd]

theorem CoreInv.raisesOwn {i : Instr} {s t : State} (hs : CoreInv s) (h : RaisesOwn i s t) : CoreInv t := by
  rcases h with ⟨_, _, _, rfl⟩ | ⟨_, _, rfl⟩ | ⟨_, rfl⟩
  · exact hs.raise rfl
  · exact hs.raise rfl
  · exact hs.raise (consistent_memoryOutOfBounds ..)

theorem CoreInv.stepCommand {s t : State} (hs : CoreInv s) (h : s.stepCommand = .next t) : CoreInv t := by
  rcases s.stepCommand_cases with ⟨-, heq⟩ | ⟨-, hodd, heq⟩ | ⟨-, -, -, heq⟩ |
    ⟨-, heven, hpc, ⟨i, -, heq⟩ | ⟨-, heq⟩⟩ <;> rw [heq] at h
  · cases h; exact hs
  · cases h; exact hs.raise (consistent_misalignedPc hodd)
  · cases h; exact hs.raise (consistent_memoryOutOfBounds ..)
  · rcases exec_inv h with hc | hr
    · exact hs.completes heven hpc hc
    · exact hs.raisesOwn hr
  · cases h; exact hs.raise rfl

end Sys2Proof.Machine

namespace Sys2Proof.Proofs

open Sys2Proof.Machine

/-- Settles O12: by the host's action, and for a STEP by its checks; an instruction runs only from an even PC inside
memory, which bounds PC and the slot that `CALL` writes. -/
theorem stepKeepsInvariant : Obligations.StepKeepsInvariant := by
  unfold Obligations.StepKeepsInvariant
  intro s t hs h
  have hdrop : CoreInv s.dropAction := hs.of_eq rfl rfl rfl rfl
  rcases step_cases s with ⟨rom, -, heq⟩ | ⟨-, heq⟩ | ⟨-, heq⟩ | ⟨-, heq⟩ <;> rw [heq] at h
  · cases h; exact State.load_coreInv ..
  · exact hdrop.stepCommand h
  · cases h; exact hdrop.tick
  · cases h

/-- Settles O11. -/
theorem resetMeetsInvariant : Obligations.ResetMeetsInvariant := by
  unfold Obligations.ResetMeetsInvariant
  exact State.reset_coreInv

/-- Settles O49: an instruction that completes leaves the latch clear and PC by its class; a fault of its own writes
only the latch. -/
theorem pcAdvancesByClass : Obligations.PcAdvancesByClass := by
  unfold Obligations.PcAdvancesByClass
  intro i s t hrun h
  rcases exec_inv h with hc | hr
  · have hrun' : ¬t.faulted = true := by
      rw [State.faulted, completes_fault hc]
      exact Bool.eq_false_iff.mp hrun
    rw [if_neg hrun']
    exact completes_pc hc
  · obtain ⟨c, a, hcode, rfl⟩ := raisesOwn_raise hr
    rw [if_pos (by simpa using hcode)]
    rfl

/-- Settles O50, from the frame of an instruction. -/
theorem onlyCallAndRetTouchStack : Obligations.OnlyCallAndRetTouchStack := by
  unfold Obligations.OnlyCallAndRetTouchStack
  intro i s t h
  have hf := exec_frame h
  exact ⟨hf.stack, fun hcall hret => by rw [State.sp, hf.depth hcall hret, State.sp]⟩

/-- Settles O51, from the frame of an instruction. -/
theorem writersOfIndexAndTimers : Obligations.WritersOfIndexAndTimers := by
  unfold Obligations.WritersOfIndexAndTimers
  intro i s t h
  have hf := exec_frame h
  exact ⟨hf.index, hf.dt, hf.st⟩

/-- Settles O53: a register write that changes VF has x = 0xF, the block load stops before VF, and every instruction
with no register result leaves all registers. -/
theorem onlyFlagWritersTouchVf : Obligations.OnlyFlagWritersTouchVf := by
  unfold Obligations.OnlyFlagWritersTouchVf
  intro i s t h hne
  rcases exec_inv h with hc | hr
  · cases i <;> simp only [Completes] at hc
    case addVxVy | subVxVy | subnVxVy | shrVx | shlVx | drwVxVyN => simp
    case ldVxKk | addVxKk | rndVxKk | ldVxVy | orVxVy | andVxVy | xorVxVy | ldVxDt =>
      rw [hc] at hne
      simp [State.dest_of_setReg_changes hne]
    case ldVxK =>
      rw [hc] at hne
      simp [State.dest_of_takeKey_changes hne]
    case ldVxI => rw [hc.2] at hne; exact absurd (s.loadBlock_vf ..) hne
    case ret | callAddr | ldBVx | ldIVx => obtain ⟨_, rfl⟩ := hc; exact absurd rfl hne
    all_goals (rw [hc] at hne; exact absurd rfl hne)
  · obtain ⟨c, a, -, rfl⟩ := raisesOwn_raise hr
    exact absurd rfl hne

/-- Settles O55: `LD ST, Vx` overwrites ST with Vx, and every other instruction commutes with a change of ST. -/
theorem noInstructionReadsSt : Obligations.NoInstructionReadsSt := by
  unfold Obligations.NoInstructionReadsSt
  intro i s t b h
  by_cases hi : ∃ x, i = .ldStVx x
  · obtain ⟨x, rfl⟩ := hi
    cases h
    exact ⟨s.v[x], rfl⟩
  · exact ⟨b, exec_withSt b (not_exists.mp hi) h⟩

/-- Settles O56, from memory, latch and frame of `LOAD`. -/
theorem loadCopiesAnyFontTable : Obligations.LoadCopiesAnyFontTable := by
  unfold Obligations.LoadCopiesAnyFontTable
  intro font s rom
  obtain ⟨hwf, hrom, hother⟩ := s.load_mem_spec font rom
  have hfault := s.load_fault font rom
  refine ⟨s.load font rom, rfl, hwf, s.load_frame font rom, fun a => s.load_read_font font rom, ?_, ?_, ?_⟩
  · intro a _ h80 ha
    rw [hother a ha, byteBeforeRom_zero h80]
  · intro hfit
    rw [if_pos hfit] at hfault
    exact ⟨by rw [State.faulted, hfault]; rfl, hrom hfit⟩
  · intro hlong
    rwa [if_neg (by omega)] at hfault

/-- Settles O57: the glyph of a digit d below 16 lies at 5d to 5d + 4, inside the 80 bytes of the table. -/
theorem loadFontAddressesGlyph : Obligations.LoadFontAddressesGlyph := by
  unfold Obligations.LoadFontAddressesGlyph
  rintro font s _ u rom x ⟨⟩ hsame hdigit
  refine ⟨{ u with i := glyphAddress u.v[x] }.next, rfl, rfl, fun k hk => ?_⟩
  rw [State.next_i, State.next_mem, glyphAddress_toNat, hsame _ (by omega)]
  exact s.load_read_font font rom (by omega)

end Sys2Proof.Proofs

/-! PROOFS. Memory (20_memory.md R50 to R61): reads after writes, the canonical form, the block that `LD [I], Vx` leaves
for a later fetch, and the instructions that write no byte. -/

namespace Sys2Proof.Machine

/-- The big-endian word of two bytes as a number (20_memory.md R53). -/
theorem joinBytes_toNat (hi lo : Byte) : (joinBytes hi lo).toNat = hi.toNat * 256 + lo.toNat := by
  rw [joinBytes, BitVec.toNat_append, ← Nat.shiftLeft_add_eq_or_of_lt lo.isLt, Nat.shiftLeft_eq]

/-- `LD [I], Vx` with its block inside memory raises no fault (20_memory.md R55, 43_index_memory.md R175). -/
theorem exec_ldIVx_of_inRange {x : Reg} {s : State} (h : s.i.toNat + x.val ≤ 4096) :
    exec (.ldIVx x) s = .next { s with mem := s.mem.writeBytes s.i.toNat (s.block x.val) }.next := by
  rcases checkedAccess_cases (.ldIVx x) x.val s
    { s with mem := s.mem.writeBytes s.i.toNat (s.block x.val) }.next with ⟨-, hc⟩ | ⟨⟨-, hout⟩, -⟩
  · exact hc
  · omega

/-- A byte of a stored block is the register of its place (43_index_memory.md R175). -/
theorem State.read_storedBlock {s : State} {base c a : Nat} (hm : s.mem.wf = true) (hc : c ≤ 16)
    (hin : base + c ≤ 4096) (hlo : base ≤ a) (hhi : a < base + c) :
    (s.mem.writeBytes base (s.block c)).read a = s.v[a - base] := by
  have hlen : (s.block c).length = c := s.block_length hc
  rw [(Memory.writeBytes_spec hm (by omega)).2 a, dif_pos ⟨hlo, by omega⟩, s.block_get _ (by omega)]

end Sys2Proof.Machine

namespace Sys2Proof.Proofs

open Sys2Proof.Machine

/-- Settles O20, from the law of one write. -/
theorem memoryReadsLatestWrite : Obligations.MemoryReadsLatestWrite := by
  unfold Obligations.MemoryReadsLatestWrite
  intro m a b hm ha
  refine ⟨Memory.write_wf hm ha b, ?_, fun a' hne => ?_⟩
  · rw [Memory.read_write hm ha, if_pos rfl]
  · rw [Memory.read_write hm ha, if_neg hne]

/-- Settles O21: a canonical memory is determined by its bytes. -/
theorem equalMemoriesAreEqualData : Obligations.EqualMemoriesAreEqualData := by
  unfold Obligations.EqualMemoriesAreEqualData
  intro m m' hm hm' h
  exact Memory.ext_from hm hm' h

/-- Settles O22: the store raises no fault, and both bytes of the word lie in the block it wrote. -/
theorem fetchSeesStoredBlock : Obligations.FetchSeesStoredBlock := by
  unfold Obligations.FetchSeesStoredBlock
  intro x s a hm hin hlo hhi
  refine ⟨_, exec_ldIVx_of_inRange hin, ?_⟩
  rw [State.next_mem, Memory.readWord, joinBytes_toNat,
    State.read_storedBlock hm (by omega) hin hlo (by omega),
    State.read_storedBlock hm (by omega) hin (by omega) hhi]

/-- Settles O52, from the frame of an instruction. -/
theorem onlyStoresWriteMemory : Obligations.OnlyStoresWriteMemory := by
  unfold Obligations.OnlyStoresWriteMemory
  intro i s t h hbcd hblock a
  rw [(exec_frame h).mem hbcd hblock]

end Sys2Proof.Proofs

/-! PROOFS. The decoder (30_encoding.md R70 to R83): at most one row of the table matches an opcode, so what an opcode
decodes to is read off that row; the encoder inverts it; and what a STEP does with the word it fetches. -/

namespace Sys2Proof

/-! ### Decoding by the one row that matches -/

theorem Row.accepts_iff (r : Row) (op : Word) : r.accepts op = true ↔ op &&& r.mask = r.value := beq_iff_eq

/-- Two different rows of the table fix a bit in common, and fix it to different values. -/
theorem table_rows_disagree :
    ∀ r ∈ table, ∀ q ∈ table, r.value &&& q.mask = q.value &&& r.mask → r = q := by
  decide +kernel

/-- No opcode matches two rows (30_encoding.md R75). -/
theorem row_unique {op : Word} {r q : Row} (hr : r ∈ table) (hq : q ∈ table) (hrop : op &&& r.mask = r.value)
    (hqop : op &&& q.mask = q.value) : r = q := by
  refine table_rows_disagree r hr q hq ?_
  rw [← hrop, ← hqop, BitVec.and_assoc, BitVec.and_assoc, BitVec.and_comm r.mask]

theorem accepting_rows_subsingleton (op : Word) : {r ∈ table | r.accepts op = true}.Subsingleton :=
  fun r ⟨hr, hrop⟩ q ⟨hq, hqop⟩ => row_unique hr hq ((r.accepts_iff op).mp hrop) ((q.accepts_iff op).mp hqop)

/-- The inversion of an opcode that decodes: a row of the table matches it. -/
theorem exists_row_of_decode_ok {op : Word} {i : Instr} (h : decode op = .ok i) :
    ∃ r ∈ table, r.accepts op = true ∧ i = build op r.id := by
  unfold decode at h
  cases hf : table.find? (fun r => r.accepts op) with
  | none => rw [hf] at h; cases h
  | some r =>
    rw [hf] at h
    cases h
    exact ⟨r, List.mem_of_find?_eq_some hf, List.find?_some (p := fun r : Row => r.accepts op) hf, rfl⟩

theorem decode_eq_error_iff {op : Word} {e : DecodeReject} :
    decode op = .error e ↔ e = .unknownOpcode op ∧ ∀ r ∈ table, op &&& r.mask ≠ r.value := by
  have hnone : table.find? (fun r => r.accepts op) = none ↔ ∀ r ∈ table, op &&& r.mask ≠ r.value := by
    simp only [List.find?_eq_none, Row.accepts_iff, ne_eq]
  rw [← hnone, decode]
  cases table.find? (fun r => r.accepts op) <;> simp [eq_comm]

/-- A row that matches decides the decoding, wherever it stands in the table. -/
theorem decode_of_row {op : Word} {r : Row} (hr : r ∈ table) (hop : r.accepts op = true) :
    decode op = .ok (build op r.id) := by
  cases hd : decode op with
  | error e => exact absurd ((r.accepts_iff op).mp hop) ((decode_eq_error_iff.mp hd).2 r hr)
  | ok i =>
    obtain ⟨q, hq, hqop, rfl⟩ := exists_row_of_decode_ok hd
    rw [accepting_rows_subsingleton op ⟨hr, hop⟩ ⟨hq, hqop⟩]

/-- A row of format xyf matches whatever x and y are. -/
theorem decode_of_xyf_row {id : InstrId} {c : BitVec 4} {n : Count} (x y : Reg)
    (hr : ⟨id, 0xF00F, wordXyn c 0 0 n⟩ ∈ table) : decode (wordXyn c x y n) = .ok (build (wordXyn c x y n) id) :=
  decode_of_row hr ((Row.accepts_iff _ _).mpr (wordXyn_and_function c x y n))

/-! ### Decoding what was encoded -/

/-- The laws of the family `RowMatch`, said of every instruction. -/
theorem exists_row_of_encode (i : Instr) : Laws.RowMatch.Statement i :=
  match i with
  | .cls => Laws.RowMatch.cls
  | .ret => Laws.RowMatch.ret
  | .jpAddr nnn => Laws.RowMatch.jpAddr nnn
  | .callAddr nnn => Laws.RowMatch.callAddr nnn
  | .seVxKk x kk => Laws.RowMatch.seVxKk x kk
  | .sneVxKk x kk => Laws.RowMatch.sneVxKk x kk
  | .seVxVy x y => Laws.RowMatch.seVxVy x y
  | .ldVxKk x kk => Laws.RowMatch.ldVxKk x kk
  | .addVxKk x kk => Laws.RowMatch.addVxKk x kk
  | .ldVxVy x y => Laws.RowMatch.ldVxVy x y
  | .orVxVy x y => Laws.RowMatch.orVxVy x y
  | .andVxVy x y => Laws.RowMatch.andVxVy x y
  | .xorVxVy x y => Laws.RowMatch.xorVxVy x y
  | .addVxVy x y => Laws.RowMatch.addVxVy x y
  | .subVxVy x y => Laws.RowMatch.subVxVy x y
  | .shrVx x => Laws.RowMatch.shrVx x
  | .subnVxVy x y => Laws.RowMatch.subnVxVy x y
  | .shlVx x => Laws.RowMatch.shlVx x
  | .sneVxVy x y => Laws.RowMatch.sneVxVy x y
  | .ldIAddr nnn => Laws.RowMatch.ldIAddr nnn
  | .jpV0Addr nnn => Laws.RowMatch.jpV0Addr nnn
  | .rndVxKk x kk => Laws.RowMatch.rndVxKk x kk
  | .drwVxVyN x y n => Laws.RowMatch.drwVxVyN x y n
  | .skpVx x => Laws.RowMatch.skpVx x
  | .sknpVx x => Laws.RowMatch.sknpVx x
  | .ldVxDt x => Laws.RowMatch.ldVxDt x
  | .ldVxK x => Laws.RowMatch.ldVxK x
  | .ldDtVx x => Laws.RowMatch.ldDtVx x
  | .ldStVx x => Laws.RowMatch.ldStVx x
  | .addIVx x => Laws.RowMatch.addIVx x
  | .ldFVx x => Laws.RowMatch.ldFVx x
  | .ldBVx x => Laws.RowMatch.ldBVx x
  | .ldIVx x => Laws.RowMatch.ldIVx x
  | .ldVxI x => Laws.RowMatch.ldVxI x

theorem decode_encode (i : Instr) : decode (encode i) = .ok i := by
  obtain ⟨r, hr, hid, hop⟩ := exists_row_of_encode i
  rw [decode_of_row hr hop, hid, build_encode]

/-! ### Encoding what was decoded -/

/-- The row of an id is the only one with that id. -/
theorem find?_id_of_mem_table : ∀ r ∈ table, table.find? (fun q => q.id = r.id) = some r := by
  decide +kernel

/-- The word that a row matches, from the row's fixed fields and the word's own operands: one lemma for each format. -/
theorem wordNnn_of_and {op v : Word} {c : BitVec 4} (h : op &&& 0xF000 = v) (hc : opClass v = c) :
    wordNnn c (fieldNnn op) = op := by
  rw [← hc, ← opClass_of_and h, wordNnn_eta]

theorem wordXkk_of_and_class {op v : Word} {c : BitVec 4} (h : op &&& 0xF000 = v) (hc : opClass v = c) :
    wordXkk c (fieldX op) (fieldKk op) = op := by
  rw [← hc, ← opClass_of_and h, wordXkk_eta]

theorem wordXyn_of_and_class {op v : Word} {c : BitVec 4} (h : op &&& 0xF000 = v) (hc : opClass v = c) :
    wordXyn c (fieldX op) (fieldY op) (fieldN op) = op := by
  rw [← hc, ← opClass_of_and h, wordXyn_eta]

theorem wordXyn_of_and_function {op v : Word} {c : BitVec 4} {n : Count} (h : op &&& 0xF00F = v)
    (hv : opClass v = c ∧ fieldN v = n) : wordXyn c (fieldX op) (fieldY op) n = op := by
  obtain ⟨rfl, rfl⟩ := hv
  obtain ⟨hclass, hn⟩ := function_of_and h
  rw [← hclass, ← hn, wordXyn_eta]

theorem wordXkk_of_and_lowByte {op v : Word} {c : BitVec 4} {kk : Byte} (h : op &&& 0xF0FF = v)
    (hv : opClass v = c ∧ fieldKk v = kk) : wordXkk c (fieldX op) kk = op := by
  obtain ⟨rfl, rfl⟩ := hv
  obtain ⟨hclass, hkk⟩ := lowByte_of_and h
  rw [← hclass, ← hkk, wordXkk_eta]

/-- The bits that a row does not fix are the operands' own, except y of the shifts (30_encoding.md R80). -/
theorem encode_build {op : Word} {r : Row} (hr : r ∈ table) (hop : op &&& r.mask = r.value)
    (hshr : r.id ≠ .shrVx) (hshl : r.id ≠ .shlVx) : encode (build op r.id) = op := by
  have hrow := find?_id_of_mem_table r hr
  obtain ⟨id, mask, value⟩ := r
  cases id
  case shrVx => exact absurd rfl hshr
  case shlVx => exact absurd rfl hshl
  all_goals cases hrow
  case cls | ret => exact hop.symm.trans BitVec.and_allOnes
  case jpAddr | callAddr | ldIAddr | jpV0Addr => exact wordNnn_of_and hop (by decide)
  case seVxKk | sneVxKk | ldVxKk | addVxKk | rndVxKk => exact wordXkk_of_and_class hop (by decide)
  case drwVxVyN => exact wordXyn_of_and_class hop (by decide)
  case seVxVy | ldVxVy | orVxVy | andVxVy | xorVxVy | addVxVy | subVxVy | subnVxVy | sneVxVy =>
    exact wordXyn_of_and_function hop (by decide)
  all_goals exact wordXkk_of_and_lowByte hop (by decide)

/-! ### The fields as numbers -/

/-- Extracting a field is masking and shifting (30_encoding.md R72). -/
theorem extractLsb'_toNat_eq_masked (op : Word) {mask : Word} {start len : Nat}
    (hmask : (mask >>> start).toNat = 2 ^ len - 1) :
    (op.extractLsb' start len).toNat = ((op &&& mask) >>> start).toNat := by
  rw [BitVec.extractLsb'_toNat, BitVec.ushiftRight_and_distrib, BitVec.toNat_and, hmask,
    BitVec.toNat_ushiftRight, Nat.and_two_pow_sub_one_eq_mod]

theorem fieldX_val (op : Word) : (fieldX op).val = ((op &&& 0x0F00) >>> 8).toNat :=
  extractLsb'_toNat_eq_masked op (by decide)

theorem fieldY_val (op : Word) : (fieldY op).val = ((op &&& 0x00F0) >>> 4).toNat :=
  extractLsb'_toNat_eq_masked op (by decide)

theorem fieldN_val (op : Word) : (fieldN op).val = (op &&& 0x000F).toNat :=
  extractLsb'_toNat_eq_masked op (start := 0) (by decide)

theorem fieldKk_toNat (op : Word) : (fieldKk op).toNat = (op &&& 0x00FF).toNat :=
  extractLsb'_toNat_eq_masked op (start := 0) (by decide)

theorem fieldNnn_toNat (op : Word) : (fieldNnn op).toNat = (op &&& 0x0FFF).toNat :=
  extractLsb'_toNat_eq_masked op (start := 0) (by decide)

/-! ### What a row matches, in numbers -/

theorem opClass_eq_iff {op v : Word} : opClass op = opClass v ↔ op.toNat / 4096 = v.toNat / 4096 := by
  have := op.isLt
  have := v.isLt
  simp only [opClass, BitVec.toNat_eq, BitVec.extractLsb'_toNat, Nat.shiftRight_eq_div_pow]
  omega

theorem fieldN_eq_iff {op v : Word} : fieldN op = fieldN v ↔ op.toNat % 16 = v.toNat % 16 := by
  simp [fieldN, Fin.ext_iff]

theorem fieldKk_eq_iff {op v : Word} : fieldKk op = fieldKk v ↔ op.toNat % 256 = v.toNat % 256 := by
  simp [fieldKk, BitVec.toNat_eq]

/-- A class row matches by the class nibble. -/
theorem and_class_eq_iff {op v : Word} (hv : v &&& 0xF000 = v) :
    op &&& 0xF000 = v ↔ op.toNat / 4096 = v.toNat / 4096 := by
  rw [← opClass_eq_iff]
  refine ⟨opClass_of_and, fun h => ?_⟩
  rw [← wordNnn_eta op, wordNnn_and_class, h, ← wordNnn_and_class _ (fieldNnn v), wordNnn_eta, hv]

/-- A row of format xyf matches by the class nibble and the low nibble. -/
theorem and_function_eq_iff {op v : Word} (hv : v &&& 0xF00F = v) :
    op &&& 0xF00F = v ↔ op.toNat / 4096 = v.toNat / 4096 ∧ op.toNat % 16 = v.toNat % 16 := by
  rw [← opClass_eq_iff, ← fieldN_eq_iff]
  refine ⟨function_of_and, fun ⟨hclass, hn⟩ => ?_⟩
  rw [← wordXyn_eta op, wordXyn_and_function, hclass, hn, ← wordXyn_and_function _ (fieldX v) (fieldY v),
    wordXyn_eta, hv]

/-- A row of format xff matches by the class nibble and the low byte. -/
theorem and_lowByte_eq_iff {op v : Word} (hv : v &&& 0xF0FF = v) :
    op &&& 0xF0FF = v ↔ op.toNat / 4096 = v.toNat / 4096 ∧ op.toNat % 256 = v.toNat % 256 := by
  rw [← opClass_eq_iff, ← fieldKk_eq_iff]
  refine ⟨lowByte_of_and, fun ⟨hclass, hkk⟩ => ?_⟩
  rw [← wordXkk_eta op, wordXkk_and_function, hclass, hkk, ← wordXkk_and_function _ (fieldX v), wordXkk_eta, hv]

/-- The control rows match one opcode each, of class nibble 0. -/
theorem ne_of_class_ne_zero {op v : Word} (hv : v.toNat / 4096 = 0) (h : op.toNat / 4096 ≠ 0) : op ≠ v := by
  rintro rfl
  exact h hv

/-! ### From bytes -/

/-- Two bytes decode as the opcode they make (30_encoding.md R53, R70). -/
theorem decodeBytes_eq_ok_iff {hi lo : Byte} {rest : List Byte} {i : Instr} :
    decodeBytes (hi :: lo :: rest) = .ok (i, rest) ↔ decode (joinBytes hi lo) = .ok i := by
  simp only [decodeBytes]
  cases decode (joinBytes hi lo) <;> simp [Except.map]

theorem decodeBytes_encodeBytes (i : Instr) (rest : List Byte) :
    decodeBytes (encodeBytes i ++ rest) = .ok (i, rest) := by
  change decodeBytes (highByte (encode i) :: lowByte (encode i) :: rest) = _
  rw [decodeBytes_eq_ok_iff, joinBytes_bytes, decode_encode]

/-- A table word of 16 bits decodes as itself. -/
theorem decode_of_decodeTableWord {w : Nat} {i : Instr} (h : decodeTableWord 16 w = some i) :
    decode (BitVec.ofNat 16 (w % 2 ^ 16)) = .ok i := by
  simp only [decodeTableWord, decodeBytes, joinBytes_bytes] at h
  cases hd : decode (BitVec.ofNat 16 (w % 2 ^ 16)) <;> rw [hd] at h <;> cases h
  rfl

end Sys2Proof

namespace Sys2Proof.Machine

/-! ### STEP on the fetched word (30_encoding.md R83) -/

theorem step_of_nextAction_step {s : State} (h : s.nextAction = .step) : step s = s.dropAction.stepCommand := by
  rw [step, h]
  rfl

/-- A STEP whose fetch succeeds and whose word decodes runs the instruction. -/
theorem State.stepCommand_of_decode {s : State} {i : Instr} (hrun : s.faulted = false) (heven : s.pc.toNat % 2 = 0)
    (hin : s.pc.toNat + 2 ≤ 4096) (hd : decode (s.mem.readWord s.pc.toNat) = .ok i) : s.stepCommand = exec i s := by
  rcases s.stepCommand_cases with ⟨hf, -⟩ | ⟨-, hodd, -⟩ | ⟨-, -, hout, -⟩ | ⟨-, -, -, ⟨j, hj, h⟩ | ⟨⟨e, he⟩, -⟩⟩
  · rw [hrun] at hf; cases hf
  · omega
  · omega
  · rw [hd] at hj; cases hj; exact h
  · rw [hd] at he; cases he

theorem fetchable_iff {pc : Word} : fetchable pc = true ↔ pc.toNat % 2 = 0 ∧ pc.toNat + 2 ≤ 4096 := by
  rw [fetchable, Bool.and_eq_true, Bool.not_eq_true', Option.isNone_iff_eq_none, outOfRange_none,
    Bool.eq_false_iff, Ne, misaligned_iff]
  omega

/-- A word written at an address inside memory is what a fetch there reads. -/
theorem Memory.readWord_writeBytes {m : Memory} (hm : m.wf = true) {a : Nat} (ha : a + 2 ≤ 4096) (w : Word) :
    (m.writeBytes a [highByte w, lowByte w]).readWord a = w := by
  have hread := (Memory.writeBytes_spec hm (bs := [highByte w, lowByte w]) ha).2
  rw [Memory.readWord, hread, hread, dif_pos (by simp), dif_pos (by simp)]
  simp [joinBytes_bytes]

/-- What the loader readies: a core that is not FAULTED, a PC to fetch from, and the word there (log 11). -/
theorem State.placeWord_spec {s : State} (hm : s.mem.wf = true) (w : Word) :
    (s.placeWord w).faulted = false ∧ fetchable (s.placeWord w).pc = true ∧
      (s.placeWord w).mem.readWord (s.placeWord w).pc.toNat = w := by
  have hpc : fetchable (s.placeWord w).pc = true := by
    change fetchable (if fetchable s.pc then s.pc else Config.progBase) = true
    split
    next h => exact h
    next => decide
  refine ⟨?_, hpc, Memory.readWord_writeBytes hm (fetchable_iff.mp hpc).2 w⟩
  change State.faulted { s with fault := if s.faulted then FaultLatch.clear else s.fault } = false
  cases hf : s.faulted
  · exact hf
  · rfl

end Sys2Proof.Machine

namespace Sys2Proof.Proofs

open Sys2Proof.Machine

/-- Settles O15: the row of the instruction matches its word, and the fields of that word are its operands. -/
theorem decodeOfEncodeIsIdentity : Obligations.DecodeOfEncodeIsIdentity := by
  unfold Obligations.DecodeOfEncodeIsIdentity
  intro i rest _
  exact ⟨decode_encode i, decodeBytes_encodeBytes i rest⟩

/-- Settles O16: two different rows disagree on a bit that both fix, so the matching row is the same in any order. -/
theorem noOpcodeMatchesTwoRows : Obligations.NoOpcodeMatchesTwoRows := by
  unfold Obligations.NoOpcodeMatchesTwoRows
  refine ⟨fun op r q => row_unique, fun op rows hperm => ?_⟩
  exact (List.find?_eq_find?_of_perm hperm.symm (accepting_rows_subsingleton op)).symm

/-- Settles O17: what each row matches in numbers, compared with R81's table one class nibble at a time. -/
theorem illegalOpcodesAreThoseListed : Obligations.IllegalOpcodesAreThoseListed := by
  unfold Obligations.IllegalOpcodesAreThoseListed
  intro op
  have hall : op &&& 0xFFFF = op := BitVec.and_allOnes
  have hcls := ne_of_class_ne_zero (op := op) (v := 0x00E0#16) rfl
  have hret := ne_of_class_ne_zero (op := op) (v := 0x00EE#16) rfl
  have hc : op.toNat / 4096 < 16 := by have := op.isLt; omega
  have hn : op.toNat % 16 < 16 := Nat.mod_lt _ (by decide)
  simp (disch := decide) only [decode_eq_error_iff, true_and, ne_eq, table, List.forall_mem_append,
    List.forall_mem_cons, hall, and_class_eq_iff, and_function_eq_iff, and_lowByte_eq_iff]
  generalize op.toNat / 4096 = c, op.toNat % 16 = n, op.toNat % 256 = nn at *
  interval_cases c <;> simp [hcls, hret, and_assoc]
  -- Left is class 8, whose illegal low nibbles R81 lists and whose legal ones the rows give.
  omega

/-- Settles O18: the operands are those that the matching row extracts. -/
theorem decodedOperandsAreTheFields : Obligations.DecodedOperandsAreTheFields := by
  unfold Obligations.DecodedOperandsAreTheFields
  intro op i h
  obtain ⟨r, -, -, rfl⟩ := exists_row_of_decode_ok h
  cases r.id <;>
    simp only [build, Instr.term, InstrId.operands, fieldX_val, fieldY_val, fieldN_val, fieldKk_toNat, fieldNnn_toNat]

/-- Settles O19: the row of a shift fixes no bit of y, and every other row gives all the bits that it does not fix to
the operands. -/
theorem onlyShiftsIgnoreBits : Obligations.OnlyShiftsIgnoreBits := by
  unfold Obligations.OnlyShiftsIgnoreBits
  refine ⟨fun x y => ⟨?_, ?_⟩, fun op i h hshr hshl => ?_⟩
  · have h := decode_of_xyf_row (id := .shrVx) (c := 0x8) (n := 0x6) x y (by decide)
    rwa [build, fieldX_wordXyn] at h
  · have h := decode_of_xyf_row (id := .shlVx) (c := 0x8) (n := 0xE) x y (by decide)
    rwa [build, fieldX_wordXyn] at h
  · obtain ⟨r, hr, hop, rfl⟩ := exists_row_of_decode_ok h
    refine (encode_build hr ((r.accepts_iff op).mp hop) ?_ ?_).symm
    · exact fun hid => hshr (fieldX op) (by rw [hid]; rfl)
    · exact fun hid => hshl (fieldX op) (by rw [hid]; rfl)

/-- Settles O6: no check of the STEP fails, and the two bytes are the fetched word's. -/
theorem stepRunsDecodedInstruction : Obligations.StepRunsDecodedInstruction := by
  unfold Obligations.StepRunsDecodedInstruction
  intro s i hact hrun heven hin hd _
  rw [step_of_nextAction_step hact]
  exact State.stepCommand_of_decode hrun heven (Nat.succ_le_succ hin) (decodeBytes_eq_ok_iff.mp hd)

/-- Settles O7: the cases of a STEP, whose order is that of the checks. -/
theorem fetchAndDecodeFaultsInOrder : Obligations.FetchAndDecodeFaultsInOrder := by
  unfold Obligations.FetchAndDecodeFaultsInOrder
  intro s hact hrun
  rw [step_of_nextAction_step hact]
  have hcases := s.dropAction.stepCommand_cases
  simp only [State.dropAction_faulted, State.dropAction_pc, State.dropAction_mem] at hcases
  rcases hcases with ⟨hf, -⟩ | ⟨-, hodd, h⟩ | ⟨-, heven, hout, h⟩ | ⟨-, heven, hin, hdec⟩
  · rw [hrun] at hf; cases hf
  · rw [if_pos hodd]
    exact h
  · rw [if_neg (by omega), if_pos (by omega)]
    exact h
  · rw [if_neg (by omega), if_neg (by omega)]
    intro op hop herr
    obtain rfl : s.mem.readWord s.pc.toNat = op := by
      apply BitVec.eq_of_toNat_eq
      rw [hop, Memory.readWord, joinBytes_toNat]
    rcases hdec with ⟨i, hi, -⟩ | ⟨-, h⟩
    · cases herr.symm.trans hi
    · exact h

/-- Settles O13: what the loader readies is all that the STEP checks. -/
theorem placedWordRunsNext : Obligations.PlacedWordRunsNext := by
  unfold Obligations.PlacedWordRunsNext
  intro s w i hm hw
  obtain ⟨hrun, hpc, hword⟩ := State.placeWord_spec hm (BitVec.ofNat 16 (w % 2 ^ 16))
  obtain ⟨heven, hin⟩ := fetchable_iff.mp hpc
  have hact : (s.withFetchWord 16 w).nextAction = .step := rfl
  have hdrop : (s.withFetchWord 16 w).dropAction = s.withFetchWord 16 w := rfl
  rw [step_of_nextAction_step hact, hdrop, State.withFetchWord]
  exact State.stepCommand_of_decode hrun heven hin (by rw [hword, decode_of_decodeTableWord hw])

/-- Settles O14: each word is decided by the table. -/
theorem specWordsDecode : Obligations.SpecWordsDecode := by
  unfold Obligations.SpecWordsDecode
  decide

end Sys2Proof.Proofs

/-! PROOFS. Control transfer (40_control.md R100 to R103): `CALL` and `RET` by the slot of the stack that they write or
read, and the jumps. -/

namespace Sys2Proof.Machine

/-! ### The depth by slots (10_state.md R33; log 7) -/

/-- SP names a slot when the depth is one above it. -/
theorem State.sp_eq_slot_iff {s : State} {j : Fin 16} : s.sp = j.val ↔ s.depth = j.succ := by
  rw [Fin.ext_iff, Fin.val_succ, State.sp]
  omega

/-- With SP below 15 there is a free slot above the top. -/
theorem State.exists_free_slot {s : State} (h : s.sp < 15) : ∃ j : Fin 16, s.depth = j.castSucc := by
  rw [State.sp] at h
  exact ⟨⟨s.depth.val, by omega⟩, rfl⟩

/-- A push writes the free slot above the top and moves SP to it. -/
theorem State.push?_free {s : State} {j : Fin 16} (h : s.depth = j.castSucc) (w : Word) :
    s.push? w = some { s with stack := s.stack.set j w, depth := j.succ } := by
  rcases s.push?_cases w with ⟨hfull, -⟩ | ⟨_, hp⟩
  · simp only [State.sp, h, Fin.val_castSucc] at hfull
    omega
  · rw [hp]
    simp only [h]
    rfl

/-- A pop reads the slot that SP names and moves SP below it. -/
theorem State.pop?_slot {s : State} {j : Fin 16} (h : s.depth = j.succ) :
    s.pop? = some (s.stack[j], { s with depth := j.castSucc }) := by
  rcases s.pop?_cases with ⟨hempty, -⟩ | ⟨_, hp⟩
  · simp only [State.sp, h, Fin.val_succ] at hempty
    omega
  · rw [hp]
    simp only [h]
    rfl

/-- A push is refused with SP = 15. -/
theorem State.push?_full {s : State} (h : s.sp = 15) (w : Word) : s.push? w = none := by
  rcases s.push?_cases w with ⟨-, hp⟩ | ⟨hlt, -⟩
  · exact hp
  · rw [State.sp] at h
    omega

/-- A pop is refused with SP = −1. -/
theorem State.pop?_empty {s : State} (h : s.sp = -1) : s.pop? = none := by
  rcases s.pop?_cases with ⟨-, hp⟩ | ⟨hpos, -⟩
  · exact hp
  · rw [State.sp] at h
    omega

/-! ### CALL and RET -/

theorem exec_callAddr_free {s : State} {j : Fin 16} (h : s.depth = j.castSucc) (nnn : Addr) :
    exec (.callAddr nnn) s =
      .next { s with stack := s.stack.set j (s.pc + 2), depth := j.succ, pc := addrWord nnn } := by
  rw [exec, execCallAddr, State.push?_free h]
  rfl

theorem exec_ret_slot {s : State} {j : Fin 16} (h : s.depth = j.succ) :
    exec .ret s = .next { s with depth := j.castSucc, pc := s.stack[j] } := by
  rw [exec, execRet, State.pop?_slot h]
  rfl

end Sys2Proof.Machine

namespace Sys2Proof.Proofs

open Sys2Proof.Machine

/-- Settles O26: `RET` pops the slot that `CALL` pushed, which holds P + 2, and the depth is as before. -/
theorem returnUndoesCall : Obligations.ReturnUndoesCall := by
  unfold Obligations.ReturnUndoesCall
  intro nnn s t hsp hcall
  obtain ⟨j, hj⟩ := State.exists_free_slot hsp
  rw [exec_callAddr_free hj] at hcall
  cases hcall
  refine ⟨_, exec_ret_slot rfl, ?_⟩
  simp [← hj]

/-- Settles O23: both targets are written as they are, and the sum of `JP V0` does not wrap. -/
theorem jumpsWriteOnlyPc : Obligations.JumpsWriteOnlyPc := by
  unfold Obligations.JumpsWriteOnlyPc
  intro nnn s
  exact ⟨⟨_, rfl, rfl, addrWord_toNat nnn⟩, ⟨_, rfl, rfl, addrWord_add_byteWord_toNat nnn _⟩⟩

/-- Settles O24: `CALL` writes the free slot above the top, and with none free the push fails. -/
theorem callPushesOrOverflows : Obligations.CallPushesOrOverflows := by
  unfold Obligations.CallPushesOrOverflows
  refine fun nnn s => ⟨fun hsp => ?_, fun hsp => ?_⟩
  · obtain ⟨j, hj⟩ := State.exists_free_slot hsp
    refine ⟨_, exec_callAddr_free hj nnn, rfl, ?_, addrWord_toNat nnn, fun k => ?_⟩
    · rw [State.sp_eq_slot_iff.mpr rfl, State.sp, hj, Fin.val_castSucc]
      omega
    · rw [State.sp_eq_slot_iff.mpr rfl, Fin.getElem_fin, Vector.getElem_set]
      simp only [Nat.cast_inj, eq_comm, Fin.getElem_fin]
  · rw [exec, execCallAddr, State.push?_full hsp]
    rfl

/-- Settles O25: `RET` pops the slot that SP names, and with none named the pop fails. -/
theorem retPopsOrUnderflows : Obligations.RetPopsOrUnderflows := by
  unfold Obligations.RetPopsOrUnderflows
  refine fun s => ⟨fun j hj => ?_, fun hsp => ?_⟩
  · refine ⟨_, exec_ret_slot (State.sp_eq_slot_iff.mp hj.symm), rfl, ?_⟩
    rw [← hj]
    rfl
  · rw [exec, execRet, State.pop?_empty hsp]
    rfl

end Sys2Proof.Proofs

/-! PROOFS. Skips (41_skip.md R120 to R126): PC after a skip by the condition that the spec states, and the key test
on one bit of the mask. -/

namespace Sys2Proof.Machine

/-- PC after a skip whose flag decides `p`: "skip" of R16 with `p`, "next" without (41_skip.md R126). -/
theorem State.skipIf_pc_of_iff {s : State} {c : Bool} {p : Prop} [Decidable p] (h : c = true ↔ p) :
    (s.skipIf c).pc = if p then s.pc + 4 else s.pc + 2 := by
  rw [State.skipIf_pc, apply_ite (s.pc + ·)]
  exact if_congr h rfl rfl

theorem byte_beq_iff {a b : Byte} : (a == b) = true ↔ a.toNat = b.toNat := by
  rw [beq_iff_eq, BitVec.toNat_inj]

theorem byte_bne_iff {a b : Byte} : (a != b) = true ↔ a.toNat ≠ b.toNat := by
  rw [bne_iff_ne, Ne, Ne, BitVec.toNat_inj]

/-- A key is held when it is one of the 16 and its bit of the mask is 1 (41_skip.md R124). -/
theorem keyHeld_iff {mask : Word} {vx : Byte} :
    keyHeld mask vx = true ↔ vx.toNat < 16 ∧ mask.toNat / 2 ^ vx.toNat % 2 = 1 := by
  rw [keyHeld, Bool.and_eq_true, decide_eq_true_iff, BitVec.getLsbD, Nat.testBit_eq_decide_div_mod_eq,
    decide_eq_true_iff]

theorem not_keyHeld_iff {mask : Word} {vx : Byte} :
    (!keyHeld mask vx) = true ↔ ¬(vx.toNat < 16 ∧ mask.toNat / 2 ^ vx.toNat % 2 = 1) := by
  rw [Bool.not_eq_true', ← Bool.not_eq_true, keyHeld_iff]

end Sys2Proof.Machine

namespace Sys2Proof.Proofs

open Sys2Proof.Machine

/-- Settles O27: both are a skip, whose flag compares Vx with kk. -/
theorem skipsOnImmediate : Obligations.SkipsOnImmediate := by
  unfold Obligations.SkipsOnImmediate
  intro x kk s
  exact ⟨⟨_, rfl, rfl, State.skipIf_pc_of_iff byte_beq_iff⟩, ⟨_, rfl, rfl, State.skipIf_pc_of_iff byte_bne_iff⟩⟩

/-- Settles O28: both are a skip, whose flag compares Vx with Vy. -/
theorem skipsOnRegister : Obligations.SkipsOnRegister := by
  unfold Obligations.SkipsOnRegister
  intro x y s
  exact ⟨⟨_, rfl, rfl, State.skipIf_pc_of_iff byte_beq_iff⟩, ⟨_, rfl, rfl, State.skipIf_pc_of_iff byte_bne_iff⟩⟩

/-- Settles O29: both ask for one mask and then skip, by the bit that Vx names or by its complement. -/
theorem keySkipsTestOneMask : Obligations.KeySkipsTestOneMask := by
  unfold Obligations.KeySkipsTestOneMask
  rintro x s m rfl held
  refine ⟨⟨_, rfl, rfl, rfl, fun h => ?_, fun h => ?_⟩, ⟨_, rfl, rfl, rfl, fun h => ?_, fun h => ?_⟩⟩
  · exact (State.skipIf_pc_of_iff keyHeld_iff).trans (if_pos h)
  · exact (State.skipIf_pc_of_iff keyHeld_iff).trans (if_neg h)
  · exact (State.skipIf_pc_of_iff not_keyHeld_iff).trans (if_neg (not_not_intro h))
  · exact (State.skipIf_pc_of_iff not_keyHeld_iff).trans (if_pos h)

end Sys2Proof.Proofs

/-! PROOFS. Register arithmetic and logic (42_alu.md R143 to R154): the register file after a result, and after a result
with its flag, read as numbers. -/

namespace Sys2Proof.Machine

/-! ### The register file after a write -/

/-- A write to Vx keeps every other register (10_state.md R22). -/
theorem State.setReg_get_of_ne (s : State) {x r : Reg} (b : Byte) (h : r ≠ x) : (s.setReg x b).v[r] = s.v[r] := by
  rw [State.setReg_get, if_neg h]

/-- Vx reads back what was written to it, bit by bit. -/
theorem State.setReg_getLsbD_self (s : State) (x : Reg) (b : Byte) (k : Nat) :
    (s.setReg x b).v[x].getLsbD k = b.getLsbD k := by
  rw [State.setReg_get, if_pos rfl]

/-- The registers after a result, read through `g`, when the result reads as `q`. -/
theorem State.setReg_get_map {α : Type} (g : Byte → α) {s : State} {x : Reg} {b : Byte} {q : α} (hb : g b = q)
    (r : Reg) : g (s.setReg x b).v[r] = if r = x then q else g s.v[r] := by
  rw [State.setReg_get, apply_ite g, hb]

/-- The registers after a result and its flag, read through `g`, when the flag reads as `p` and the result as `q`: with
x = 0xF, VF holds the flag (42_alu.md R142). -/
theorem State.setFlagged_get_map {α : Type} (g : Byte → α) {s : State} {x : Reg} {b : Byte} {c : Bool} {p q : α}
    (hc : g (flagByte c) = p) (hb : g b = q) (r : Reg) :
    g (s.setFlagged x b c).v[r] = if r = vf then p else if r = x then q else g s.v[r] := by
  rw [State.setFlagged_get, apply_ite g, apply_ite g, hc, hb]

/-! ### Results and flags as numbers (42_alu.md R140) -/

theorem byte_sub_toNat_int (a b : Byte) : ((a - b).toNat : Int) = ((a.toNat : Int) - b.toNat) % 256 := by
  bv_omega

theorem byte_shiftRight_one_toNat (a : Byte) : (a >>> 1).toNat = a.toNat / 2 := by
  rw [BitVec.toNat_ushiftRight, Nat.shiftRight_eq_div_pow, Nat.pow_one]

theorem byte_shiftLeft_one_toNat (a : Byte) : (a <<< 1).toNat = 2 * a.toNat % 256 := by
  rw [BitVec.toNat_shiftLeft, Nat.shiftLeft_eq, Nat.pow_one, Nat.mul_comm]

theorem flagByte_carries_toNat (a b : Byte) :
    (flagByte (carries a b)).toNat = if 255 < a.toNat + b.toNat then 1 else 0 :=
  flagByte_decide_toNat _

theorem flagByte_exceeds_toNat_int (a b : Byte) :
    ((flagByte (exceeds a b)).toNat : Int) = if a.toNat > b.toNat then 1 else 0 := by
  rw [exceeds, flagByte_decide_toNat, Nat.cast_ite, Nat.cast_one, Nat.cast_zero]

/-- The flag of one bit of a byte is that bit as a number. -/
theorem flagByte_getLsbD_toNat (a : Byte) (k : Nat) : (flagByte (a.getLsbD k)).toNat = a.toNat / 2 ^ k % 2 := by
  rw [BitVec.getLsbD, Nat.testBit_eq_decide_div_mod_eq, flagByte_decide_toNat]
  split <;> omega

theorem flagByte_lowBit_toNat (a : Byte) : (flagByte (lowBit a)).toNat = a.toNat % 2 := by
  rw [lowBit, flagByte_getLsbD_toNat, Nat.pow_zero, Nat.div_one]

theorem flagByte_topBit_toNat (a : Byte) : (flagByte (topBit a)).toNat = a.toNat / 128 := by
  rw [topBit, flagByte_getLsbD_toNat]
  omega

end Sys2Proof.Machine

namespace Sys2Proof.Proofs

open Sys2Proof.Machine

/-- Settles O30: both write one register and move PC. -/
theorem registerLoads : Obligations.RegisterLoads := by
  unfold Obligations.RegisterLoads
  intro x y kk s
  exact ⟨⟨_, rfl, rfl, s.setReg_get x kk⟩, ⟨_, rfl, rfl, s.setReg_get x s.v[y]⟩⟩

/-- Settles O31: each writes Vx only, and each bit of the result is the operation on the two bits. -/
theorem bitwiseOperations : Obligations.BitwiseOperations := by
  unfold Obligations.BitwiseOperations
  intro x y s
  refine ⟨⟨_, rfl, rfl, fun _ => s.setReg_get_of_ne _, fun k _ => ?_⟩,
    ⟨_, rfl, rfl, fun _ => s.setReg_get_of_ne _, fun k _ => ?_⟩,
    ⟨_, rfl, rfl, fun _ => s.setReg_get_of_ne _, fun k _ => ?_⟩⟩
  · exact (s.setReg_getLsbD_self x _ k).trans BitVec.getLsbD_or
  · exact (s.setReg_getLsbD_self x _ k).trans BitVec.getLsbD_and
  · exact (s.setReg_getLsbD_self x _ k).trans BitVec.getLsbD_xor

/-- Settles O32: one register is written, and the sum of bytes wraps modulo 256. -/
theorem addImmediateWrapsWithoutFlag : Obligations.AddImmediateWrapsWithoutFlag := by
  unfold Obligations.AddImmediateWrapsWithoutFlag
  intro x kk s
  exact ⟨_, rfl, rfl, State.setReg_get_map BitVec.toNat (BitVec.toNat_add ..)⟩

/-- Settles O33: the result is the wrapped sum and the flag is its carry. -/
theorem addSetsCarry : Obligations.AddSetsCarry := by
  unfold Obligations.AddSetsCarry
  intro x y s
  exact ⟨_, rfl, rfl,
    State.setFlagged_get_map BitVec.toNat (flagByte_carries_toNat ..) (BitVec.toNat_add ..)⟩

/-- Settles O34: the result is the wrapped difference and the flag is the strict comparison; `SUBN` is `SUB` with its
operands exchanged. -/
theorem subtractionsSetStrictFlag : Obligations.SubtractionsSetStrictFlag := by
  unfold Obligations.SubtractionsSetStrictFlag
  intro x y s
  exact ⟨
    ⟨_, rfl, rfl, State.setFlagged_get_map (fun b => (b.toNat : Int)) (flagByte_exceeds_toNat_int ..)
      (byte_sub_toNat_int ..)⟩,
    ⟨_, rfl, rfl, State.setFlagged_get_map (fun b => (b.toNat : Int)) (flagByte_exceeds_toNat_int ..)
      (byte_sub_toNat_int ..)⟩⟩

/-- Settles O35: the result is half or double of Vx, and the flag is the bit that the shift drops. -/
theorem shiftsMoveBitToFlag : Obligations.ShiftsMoveBitToFlag := by
  unfold Obligations.ShiftsMoveBitToFlag
  intro x s
  exact ⟨
    ⟨_, rfl, rfl, State.setFlagged_get_map BitVec.toNat (flagByte_lowBit_toNat _) (byte_shiftRight_one_toNat _)⟩,
    ⟨_, rfl, rfl, State.setFlagged_get_map BitVec.toNat (flagByte_topBit_toNat _) (byte_shiftLeft_one_toNat _)⟩⟩

/-- Settles O36: one draw is recorded and its answer used up, and then Vx is written. -/
theorem randomByteIsMasked : Obligations.RandomByteIsMasked := by
  unfold Obligations.RandomByteIsMasked
  rintro x kk s _ rfl
  exact ⟨_, rfl, rfl, rfl, s.askRandom.setReg_get x _⟩

end Sys2Proof.Proofs

/-! PROOFS. The index register and memory transfers (43_index_memory.md R170 to R176): I as a number, and each transfer
by the bounds check before it and by the bytes that it moves. -/

namespace Sys2Proof.Machine

/-! ### The index register (43_index_memory.md R172) -/

theorem byteWord_toNat (b : Byte) : (byteWord b).toNat = b.toNat :=
  BitVec.toNat_setWidth_of_le (by decide)

/-- The sum of I and a register wraps at 16 bits. -/
theorem add_byteWord_toNat (w : Word) (b : Byte) : (w + byteWord b).toNat = (w.toNat + b.toNat) % 65536 := by
  rw [BitVec.toNat_add, byteWord_toNat]

/-! ### The bounds check (20_memory.md R55) -/

/-- An access of no byte, or of bytes inside memory, has its effect. -/
theorem checkedAccess_of_fits {n : Nat} {s : State} (h : n = 0 ∨ s.i.toNat + n ≤ 4096) (i : Instr) (e : State) :
    checkedAccess i n s e = .next e := by
  rcases checkedAccess_cases i n s e with ⟨-, hc⟩ | ⟨hpast, -⟩
  · exact hc
  · omega

/-- An access that reaches past 0xFFF latches the fault at its lowest address out of memory, and does nothing else. -/
theorem checkedAccess_of_past {n : Nat} {s : State} (hn : 0 < n) (h : 4096 < s.i.toNat + n) (i : Instr) (e : State) :
    checkedAccess i n s e = .next { s with
      fault := ⟨.memoryOutOfBounds, s.pc, encode i, BitVec.ofNat 16 (max s.i.toNat 4096)⟩ } := by
  rcases checkedAccess_cases i n s e with ⟨hfits, -⟩ | ⟨-, hc⟩
  · omega
  · exact hc

/-! ### The bytes that a store writes and those that it keeps -/

theorem Memory.read_writeBytes_inside {m : Memory} (hm : m.wf = true) {a k : Nat} {bs : List Byte}
    (hin : a + bs.length ≤ 4096) (hk : k < bs.length) : (m.writeBytes a bs).read (a + k) = bs[k] := by
  rw [(Memory.writeBytes_spec hm hin).2, dif_pos (by omega)]
  simp only [Nat.add_sub_cancel_left]

/-- The frame of a store: no byte stored keeps all of memory, wherever the base is. -/
theorem Memory.read_writeBytes_outside {m : Memory} (hm : m.wf = true) {a a' : Nat} {bs : List Byte}
    (hin : bs.length = 0 ∨ a + bs.length ≤ 4096) (hout : a' < a ∨ a + bs.length ≤ a') :
    (m.writeBytes a bs).read a' = m.read a' := by
  rcases hin with hnone | hin
  · rw [List.eq_nil_of_length_eq_zero hnone, Memory.writeBytes]
  · rw [(Memory.writeBytes_spec hm hin).2, dif_neg (by omega)]

/-- Each register below Vx lies in the stored block at its own distance from the base (43_index_memory.md R175). -/
theorem State.read_storedBlock_reg {s : State} {base : Nat} {x r : Reg} (hm : s.mem.wf = true)
    (hin : base + x.val ≤ 4096) (hr : r.val < x.val) :
    (s.mem.writeBytes base (s.block x.val)).read (base + r.val) = s.v[r] := by
  rw [State.read_storedBlock hm (Nat.le_of_lt x.isLt) hin (by omega) (by omega)]
  simp only [Nat.add_sub_cancel_left, Fin.getElem_fin]

/-- The decimal digits do not wrap as bytes (43_index_memory.md R174). -/
theorem bcdDigits_toNat (b : Byte) :
    (bcdDigits b).map BitVec.toNat = [b.toNat / 100, b.toNat / 10 % 10, b.toNat % 10] := by
  have := b.isLt
  simp only [bcdDigits, List.map_cons, List.map_nil, BitVec.toNat_ofNat, List.cons.injEq, and_true]
  omega

/-- A stored digit, read back as a number. -/
theorem Memory.read_bcdDigits_toNat {m : Memory} (hm : m.wf = true) {a : Nat} (hin : a + 3 ≤ 4096) (b : Byte)
    (k : Nat) (hk : k < 3) : ((m.writeBytes a (bcdDigits b)).read (a + k)).toNat =
      [b.toNat / 100, b.toNat / 10 % 10, b.toNat % 10][k] := by
  rw [Memory.read_writeBytes_inside hm hin hk]
  exact (List.getElem_map BitVec.toNat).symm.trans (List.getElem_of_eq (bcdDigits_toNat b) hk)

/-! ### A block transfer that raises no fault -/

/-- `LD Vx, [I]` with its block inside memory, or with none, loads it (43_index_memory.md R176). -/
theorem exec_ldVxI_of_fits {x : Reg} {s : State} (h : x.val = 0 ∨ s.i.toNat + x.val ≤ 4096) :
    exec (.ldVxI x) s = .next (s.loadBlock s.i.toNat x.val).next :=
  checkedAccess_of_fits h ..

/-- An instruction that leaves the core running has completed (60_exceptions.md R236). -/
theorem completes_of_not_faulted {i : Instr} {s t : State} (h : exec i s = .next t) (hrun : t.faulted = false) :
    Completes i s t := by
  rcases exec_inv h with hc | hr
  · exact hc
  · obtain ⟨c, a, hne, rfl⟩ := raisesOwn_raise hr
    simp [hne] at hrun

end Sys2Proof.Machine

namespace Sys2Proof.Proofs

open Sys2Proof.Machine

/-- Settles O41: the store completed, so its block fits, and the load finds memory and I as the store left them. -/
theorem blockRoundTrip : Obligations.BlockRoundTrip := by
  unfold Obligations.BlockRoundTrip
  intro x s t u hm _ hstore hrun hmem hi
  obtain ⟨hfits, rfl⟩ := completes_of_not_faulted hstore hrun
  refine ⟨_, exec_ldVxI_of_fits (hi ▸ hfits), fun r hr => ?_⟩
  rw [State.next_v, State.loadBlock_get, if_pos hr, hmem, hi, State.next_mem,
    State.read_storedBlock_reg hm (by omega) hr]

/-- Settles O37: each writes I and moves PC. -/
theorem indexWrites : Obligations.IndexWrites := by
  unfold Obligations.IndexWrites
  intro nnn x s
  exact ⟨⟨_, rfl, rfl, addrWord_toNat nnn⟩, ⟨_, rfl, rfl, add_byteWord_toNat ..⟩,
    ⟨_, rfl, rfl, (glyphAddress_toNat _).trans (Nat.mul_comm ..)⟩⟩

/-- Settles O38: the bounds check of three bytes, then the three digits or the fault. -/
theorem bcdStoresDigitsOrFaults : Obligations.BcdStoresDigitsOrFaults := by
  unfold Obligations.BcdStoresDigitsOrFaults
  intro x s hm
  refine ⟨fun h => ?_, fun h => checkedAccess_of_past (by decide) (by omega) ..⟩
  have hin : s.i.toNat + 3 ≤ 4096 := by omega
  have hdigit := Memory.read_bcdDigits_toNat hm hin s.v[x]
  exact ⟨_, checkedAccess_of_fits (.inr hin) .., rfl, hdigit 0 (by decide), hdigit 1 (by decide),
    hdigit 2 (by decide), fun _ => Memory.read_writeBytes_outside (bs := bcdDigits s.v[x]) hm (.inr hin)⟩

/-- Settles O39: the bounds check of x bytes, then the block or the fault; x = 0 stores nothing and checks nothing. -/
theorem blockStoresOrFaults : Obligations.BlockStoresOrFaults := by
  unfold Obligations.BlockStoresOrFaults
  intro x s hm
  refine ⟨fun h => ?_, fun ⟨hx, h⟩ => checkedAccess_of_past hx (by omega) ..⟩
  have hfits : x.val = 0 ∨ s.i.toNat + x.val ≤ 4096 := by omega
  have hlen : (s.block x.val).length = x.val := s.block_length (Nat.le_of_lt x.isLt)
  refine ⟨_, checkedAccess_of_fits hfits .., rfl, fun r hr => ?_, fun a ha => ?_⟩
  · exact State.read_storedBlock_reg hm (by omega) hr
  · exact Memory.read_writeBytes_outside hm (hlen.symm ▸ hfits) (hlen.symm ▸ ha)

/-- Settles O40: the bounds check of x bytes, then the load or the fault; x = 0 loads nothing and checks nothing. -/
theorem blockLoadsOrFaults : Obligations.BlockLoadsOrFaults := by
  unfold Obligations.BlockLoadsOrFaults
  intro x s
  refine ⟨fun h => ?_, fun ⟨hx, h⟩ => checkedAccess_of_past hx (by omega) ..⟩
  exact ⟨_, exec_ldVxI_of_fits (by omega), rfl, s.loadBlock_get _ _⟩

end Sys2Proof.Proofs

/-! PROOFS. The display instructions (44_display.md R190 to R192): `DRW` by its bounds check, then the draws of its sprite
and the flag that they leave, from the laws of a sprite on a display of any size. -/

namespace Sys2Proof.Machine

/-- `DRW` with its rows inside memory, or with none, draws the sprite at the entry values of Vx and Vy
(44_display.md R191). -/
theorem exec_drwVxVyN_of_fits {x y : Reg} {n : Count} {s : State}
    (h : n.val = 0 ∨ s.i.toNat + n.val - 1 ≤ 0xFFF) :
    exec (.drwVxVyN x y n) s =
      .next (s.drawSprite (spriteRequests 64 32 s.mem s.i.toNat n.val s.v[x] s.v[y])).next :=
  checkedAccess_of_fits (by omega) ..

/-- A `DRW` that completes has left that state. -/
theorem eq_of_exec_drwVxVyN {x y : Reg} {n : Count} {s t : State}
    (h : n.val = 0 ∨ s.i.toNat + n.val - 1 ≤ 0xFFF) (ht : exec (.drwVxVyN x y n) s = .next t) :
    t = (s.drawSprite (spriteRequests 64 32 s.mem s.i.toNat n.val s.v[x] s.v[y])).next := by
  rw [exec_drwVxVyN_of_fits h] at ht
  cases ht
  rfl

/-- The registers after a draw: VF holds whether it collided, every other register is kept. -/
theorem State.drawSprite_get (s : State) (rs : List (PixelRequest 64 32)) (r : Reg) :
    (s.drawSprite rs).v[r] = if r = vf then flagByte (s.port.drawAll rs).2 else s.v[r] :=
  s.setReg_get vf _ r

/-- Drawing the same requests again undoes the first draw: XOR is its own inverse. -/
theorem Port.drawAll_drawAll_pixel {w h : Nat} (p : Port w h) (rs : List (PixelRequest w h)) (px : Fin w)
    (py : Fin h) : ((p.drawAll rs).1.drawAll rs).1.pixel px py = p.pixel px py := by
  rw [Port.drawAll_pixel, Port.drawAll_pixel, Bool.xor_assoc, Bool.xor_self, Bool.xor_false]

/-- A byte other than 0 has a 1-bit at some column, counted from the most significant bit. -/
theorem byte_exists_column_of_ne_zero {b : Byte} (h : b ≠ 0) : ∃ col < 8, b.getLsbD (7 - col) = true := by
  by_contra hnone
  push Not at hnone
  refine h (BitVec.eq_of_getLsbD_eq fun k hk => ?_)
  have hbit := hnone (7 - k) (by omega)
  rw [Nat.sub_sub_self (by omega)] at hbit
  rw [Bool.eq_false_iff.mpr hbit, BitVec.ofNat_eq_ofNat, BitVec.getLsbD_zero]

end Sys2Proof.Machine

namespace Sys2Proof.Proofs

open Sys2Proof.Machine

/-- Settles O43: the calls of a sprite on a display of any size, at 64 × 32. -/
theorem drawMakesCallsInOrder : Obligations.DrawMakesCallsInOrder := by
  unfold Obligations.DrawMakesCallsInOrder
  intro x y n s hfits
  obtain ⟨-, hlen, hkept, hcall, -⟩ :=
    portOperationsOnAnyDisplaySize 64 32 s.port s.mem s.i.toNat n.val s.v[x] s.v[y]
  refine ⟨_, exec_drwVxVyN_of_fits hfits, rfl, fun r hr => ?_, hlen, hkept, fun row hrow col hcol => ?_⟩
  · exact (s.drawSprite_get _ r).trans (if_neg hr)
  · obtain ⟨px, py, hx, hy, hget⟩ := hcall row hrow col hcol
    exact ⟨px, py, _, hget, hx, hy⟩

/-- Settles O44: the sprite on a large enough display, at 64 × 32; VF holds whether the draws collided. -/
theorem drawXorsSpriteAndReportsCollision : Obligations.DrawXorsSpriteAndReportsCollision := by
  unfold Obligations.DrawXorsSpriteAndReportsCollision
  intro x y n s t hfits ht lit
  obtain ⟨hpixel, hcollides⟩ := spriteXorsOnAnyLargeEnoughDisplay 64 32 s.port s.mem s.i.toNat n.val s.v[x] s.v[y]
    (by decide) (by omega)
  cases eq_of_exec_drwVxVyN hfits ht
  have hvf := (s.drawSprite_get (spriteRequests 64 32 s.mem s.i.toNat n.val s.v[x] s.v[y]) vf).trans (if_pos rfl)
  exact ⟨hpixel, fun hhit => hvf.trans (congrArg flagByte (hcollides.mpr hhit)),
    fun hmiss => hvf.trans (congrArg flagByte (Bool.eq_false_iff.mpr (mt hcollides.mp hmiss)))⟩

/-- Settles O46: both draws make the same requests; over a blank frame a 1-bit of the sprite sets a pixel in the first
draw, and the second draw clears it. -/
theorem drawTwiceRestoresFrame : Obligations.DrawTwiceRestoresFrame := by
  unfold Obligations.DrawTwiceRestoresFrame
  intro x y n s t u w hfits ht hx hy hmem hi hport hw
  have htEq := eq_of_exec_drwVxVyN hfits ht
  have hmem' : u.mem = s.mem := by rw [hmem, htEq]; rfl
  have hi' : u.i = s.i := by rw [hi, htEq]; rfl
  have hfits' : n.val = 0 ∨ u.i.toNat + n.val - 1 ≤ 0xFFF := hi' ▸ hfits
  obtain ⟨hfirst, -, hmiss⟩ := drawXorsSpriteAndReportsCollision x y n s t hfits ht
  obtain ⟨-, hhit, -⟩ := drawXorsSpriteAndReportsCollision x y n u w hfits' hw
  refine ⟨fun px py => ?_, fun hblank hsprite => ?_⟩
  · rw [eq_of_exec_drwVxVyN hfits' hw, State.next_port, State.drawSprite_port, hx, hy, hmem', hi', hport, htEq]
    exact s.port.drawAll_drawAll_pixel _ px py
  · obtain ⟨row, hrow, hne⟩ := hsprite
    obtain ⟨col, hcol, hbit⟩ := byte_exists_column_of_ne_zero hne
    have hlit := (hfirst (.ofNat 64 (s.v[x].toNat + col)) (.ofNat 32 (s.v[y].toNat + row))).1
      ⟨row, hrow, col, hcol, hbit, rfl, rfl⟩
    rw [hblank, Bool.not_false] at hlit
    simp only [hx, hy, hmem', hi', hport] at hhit
    refine ⟨hmiss fun ⟨px, py, _, hset⟩ => ?_, hhit ⟨_, _, ⟨row, hrow, col, hcol, hbit, rfl, rfl⟩, hlit⟩⟩
    exact Bool.false_ne_true ((hblank px py).symm.trans hset)

/-- Settles O42: one call, and the port's clear makes every pixel 0. -/
theorem clearScreen : Obligations.ClearScreen := by
  unfold Obligations.ClearScreen
  intro s
  exact ⟨_, rfl, rfl, s.port.clear_calls, s.port.clear_pixel⟩

/-- Settles O45: the bounds check of the n rows fails, before any effect. -/
theorem drawPastMemoryFaults : Obligations.DrawPastMemoryFaults := by
  unfold Obligations.DrawPastMemoryFaults
  intro x y n s hn h
  exact checkedAccess_of_past hn (by omega) ..

end Sys2Proof.Proofs

/-! PROOFS. Timers and the key wait (45_timer_key.md R210 to R213): SOUND_ON by ST, and `LD Vx, K` by the answer of its
one `PortWaitKey` call. -/

namespace Sys2Proof.Machine

/-- The buzzer sounds exactly while ST is not 0 (10_state.md R36). -/
theorem State.soundOn_iff {s : State} : s.soundOn = true ↔ s.st ≠ 0 :=
  bne_iff_ne

/-- Every key fits a register. -/
theorem keyByte_toNat (k : Key) : (BitVec.ofNat 8 k.val).toNat = k.val := by
  rw [BitVec.toNat_ofNat, Nat.mod_eq_of_lt (by omega)]

/-- `LD Vx, K` makes one call, and then acts on its answer (45_timer_key.md R211, 60_exceptions.md R254). -/
theorem exec_ldVxK_of_answer {s : State} {answer : Option Key} (h : s.inputs.nextKeyPress = answer) (x : Reg) :
    exec (.ldVxK x) s = .next (({ s with
      inputs := { s.inputs with keyPresses := s.inputs.keyPresses.tail, draws := s.inputs.draws + 1 },
      port := s.port.record (.waitKey answer) } : State).takeKey x answer) := by
  subst h
  rfl

end Sys2Proof.Machine

namespace Sys2Proof.Proofs

open Sys2Proof.Machine

/-- Settles O47: each writes its one destination and moves PC, and SOUND_ON follows the ST that was written. -/
theorem timerMoves : Obligations.TimerMoves := by
  unfold Obligations.TimerMoves
  intro x s
  exact ⟨⟨_, rfl, rfl, s.setReg_get x s.dt⟩, ⟨_, rfl, rfl⟩, ⟨_, rfl, rfl, State.soundOn_iff⟩⟩

/-- Settles O48: the call is recorded for every answer; no key leaves PC and the registers, and a key is written to Vx
as it is. -/
theorem keyWaitTakesKeyOrStays : Obligations.KeyWaitTakesKeyOrStays := by
  unfold Obligations.KeyWaitTakesKeyOrStays
  intro x s answer h
  refine ⟨_, exec_ldVxK_of_answer h x, ?_⟩
  cases answer with
  | none => exact ⟨rfl, rfl, fun _ => ⟨rfl, rfl⟩, nofun⟩
  | some k =>
    refine ⟨rfl, rfl, nofun, ?_⟩
    rintro _ ⟨⟩
    exact ⟨rfl, State.setReg_get_map BitVec.toNat (keyByte_toNat k)⟩

end Sys2Proof.Proofs

/-! PROOFS. The host's commands, faults and port calls (60_exceptions.md R230 to R257): what a STEP that answers can have
done, what a TICK does, and the instructions that call the port. -/

namespace Sys2Proof.Machine

/-! ### STEP (60_exceptions.md R236, R238, R239) -/

/-- A STEP answers a next state, whatever the core (C9). -/
theorem State.stepCommand_total (s : State) : ∃ t, s.stepCommand = .next t := by
  rcases s.stepCommand_cases with ⟨-, h⟩ | ⟨-, -, h⟩ | ⟨-, -, -, h⟩ | ⟨-, -, -, ⟨i, -, h⟩ | ⟨-, h⟩⟩
  case inr.inr.inr.inl =>
    obtain ⟨t, ht, -⟩ := exec_cases i s
    exact ⟨t, h.trans ht⟩
  all_goals exact ⟨_, h⟩

theorem State.stepCommand_of_faulted {s : State} (h : s.faulted = true) : s.stepCommand = .next s :=
  if_pos h

/-- The inversion of a STEP: FAULTED, it did nothing; else it raised a fault, or the fetched word's instruction
completed. -/
theorem State.stepCommand_inv {s t : State} (h : s.stepCommand = .next t) :
    (s.faulted = true ∧ t = s) ∨
    (∃ c o a, c ≠ .none ∧ t = s.raise c o a) ∨
    (s.faulted = false ∧ ∃ i, decode (s.mem.readWord s.pc.toNat) = .ok i ∧ Completes i s t) := by
  rcases s.stepCommand_cases with ⟨hf, heq⟩ | ⟨-, -, heq⟩ | ⟨-, -, -, heq⟩ |
    ⟨hrun, -, -, ⟨i, hi, heq⟩ | ⟨-, heq⟩⟩ <;> rw [heq] at h
  · cases h; exact .inl ⟨hf, rfl⟩
  · cases h; exact .inr (.inl ⟨_, _, _, by decide, rfl⟩)
  · cases h; exact .inr (.inl ⟨_, _, _, by decide, rfl⟩)
  · rcases exec_inv h with hc | hr
    · exact .inr (.inr ⟨hrun, i, hi, hc⟩)
    · obtain ⟨c, a, hne, rfl⟩ := raisesOwn_raise hr
      exact .inr (.inl ⟨c, _, a, hne, rfl⟩)
  · cases h; exact .inr (.inl ⟨_, _, _, by decide, rfl⟩)

theorem completes_faulted {i : Instr} {s t : State} (h : Completes i s t) : t.faulted = s.faulted := by
  rw [State.faulted, completes_fault h, State.faulted]

/-! ### TICK (60_exceptions.md R239, R245) -/

theorem step_of_nextAction_tick {s : State} (h : s.nextAction = .tick) : step s = .next s.dropAction.tick := by
  rw [step, h]
  rfl

theorem State.tick_of_faulted {s : State} (h : s.faulted = true) : s.tick = s :=
  if_pos h

theorem State.tick_of_running {s : State} (h : s.faulted = false) :
    s.tick = { s with dt := tickTimer s.dt, st := tickTimer s.st } :=
  if_neg (Bool.eq_false_iff.mp h)

/-- A TICK writes the timers only. -/
theorem State.tick_frame (s : State) : s.tick = { s with dt := s.tick.dt, st := s.tick.st } := by
  cases hf : s.faulted
  · rw [State.tick_of_running hf]
  · rw [State.tick_of_faulted hf]

/-- The list of actions without its first, where that is known. -/
theorem State.dropAction_of_cons {s : State} {a : HostAction} {rest : List HostAction}
    (h : s.inputs.actions = a :: rest) : s.dropAction = { s with inputs := { s.inputs with actions := rest } } := by
  rw [State.dropAction, h, List.tail_cons]

theorem State.nextAction_of_cons {s : State} {a : HostAction} {rest : List HostAction}
    (h : s.inputs.actions = a :: rest) : s.nextAction = a := by
  rw [State.nextAction, h, List.headD_cons]

/-! ### The port (60_exceptions.md R256) -/

/-- The instructions that call the port or the random input. -/
def CallsPort (i : Instr) : Prop :=
  i = .cls ∨ (∃ x y n, i = .drwVxVyN x y n) ∨ (∃ x, i = .skpVx x ∨ i = .sknpVx x) ∨
    (∃ x, i = .ldVxK x) ∨ ∃ x kk, i = .rndVxKk x kk

/-- An instruction that completes and has changed the port is one of those. -/
theorem completes_callsPort {i : Instr} {s t : State} (h : Completes i s t) (hport : t.port ≠ s.port) :
    CallsPort i := by
  cases i <;> simp only [Completes] at h
  case cls | drwVxVyN | skpVx | sknpVx | ldVxK | rndVxKk => simp [CallsPort]
  case ret | callAddr | ldBVx | ldIVx | ldVxI => obtain ⟨_, rfl⟩ := h; exact absurd rfl hport
  all_goals (subst h; exact absurd rfl hport)

end Sys2Proof.Machine

namespace Sys2Proof.Proofs

open Sys2Proof.Machine

/-- Settles O5: LOAD and TICK answer by themselves, and a STEP by its cases. -/
theorem stepIsTotal : Obligations.StepIsTotal := by
  unfold Obligations.StepIsTotal
  intro s
  rcases step_cases s with ⟨rom, hact, h⟩ | ⟨hact, h⟩ | ⟨hact, h⟩ | ⟨hact, h⟩ <;> rw [hact]
  · exact ⟨fun _ => ⟨_, h⟩, nofun⟩
  · exact ⟨fun _ => h ▸ s.dropAction.stepCommand_total, nofun⟩
  · exact ⟨fun _ => ⟨_, h⟩, nofun⟩
  · exact ⟨fun hne => absurd rfl hne, fun _ => h⟩

/-- Settles O8: a STEP that leaves the core FAULTED has raised the fault, since an instruction that completes leaves the
latch clear. -/
theorem faultsArePrecise : Obligations.FaultsArePrecise := by
  unfold Obligations.FaultsArePrecise
  intro s t hact hrun h hfault
  rw [step_of_nextAction_step hact] at h
  rcases State.stepCommand_inv h with ⟨hf, -⟩ | ⟨c, o, a, -, rfl⟩ | ⟨-, i, -, hc⟩
  · cases hrun.symm.trans hf
  · exact ⟨rfl, rfl⟩
  · cases hrun.symm.trans ((completes_faulted hc).symm.trans hfault)

/-- Settles O54: LOAD, TICK and a fault leave the port, so the step was a STEP whose instruction completed. -/
theorem portCallsOnlyWhereStated : Obligations.PortCallsOnlyWhereStated := by
  unfold Obligations.PortCallsOnlyWhereStated
  intro s t h hport
  rcases step_cases s with ⟨rom, -, heq⟩ | ⟨hact, heq⟩ | ⟨-, heq⟩ | ⟨-, heq⟩ <;> rw [heq] at h
  · cases h
    rw [State.load_frame] at hport
    exact absurd rfl hport
  · rcases State.stepCommand_inv h with ⟨-, rfl⟩ | ⟨c, o, a, -, rfl⟩ | ⟨hrun, i, hi, hc⟩
    · exact absurd rfl hport
    · exact absurd rfl hport
    · exact ⟨hact, (completes_faulted hc).trans hrun, i, hi, completes_callsPort hc hport⟩
  · cases h
    rw [State.tick_frame] at hport
    exact absurd rfl hport
  · cases h

/-- Settles O4: the frame of a TICK, and each timer by whether the core is FAULTED. -/
theorem tickMovesTimersTowardZero : Obligations.TickMovesTimersTowardZero := by
  unfold Obligations.TickMovesTimersTowardZero
  intro s rest hact
  have hdrop := State.dropAction_of_cons hact
  refine ⟨_, step_of_nextAction_tick (State.nextAction_of_cons hact), ?_, ?_⟩
  · exact hdrop ▸ s.dropAction.tick_frame
  · cases hf : s.faulted
    · rw [State.tick_of_running (s.dropAction_faulted.trans hf)]
      exact ⟨tickTimer_toNat s.dt, tickTimer_toNat s.st⟩
    · rw [State.tick_of_faulted (s.dropAction_faulted.trans hf)]
      exact ⟨rfl, rfl⟩

/-- Settles O9: neither command changes a FAULTED core, and the reply reads the latch. -/
theorem faultedCoreIsFrozen : Obligations.FaultedCoreIsFrozen := by
  unfold Obligations.FaultedCoreIsFrozen
  intro s hf hact
  have hf' : s.dropAction.faulted = true := s.dropAction_faulted.trans hf
  refine ⟨?_, congrArg some (if_pos hf')⟩
  rcases hact with hact | hact
  · rw [step_of_nextAction_step hact, State.stepCommand_of_faulted hf']
  · rw [step_of_nextAction_tick hact, State.tick_of_faulted hf']

/-- Settles O10: a STEP or a TICK leaves a FAULTED core as it is, and an overlapped command answers no state. -/
theorem onlyLoadLeavesFaulted : Obligations.OnlyLoadLeavesFaulted := by
  unfold Obligations.OnlyLoadLeavesFaulted
  intro s t hf h hlatch
  have hfrozen : ¬(s.nextAction = .step ∨ s.nextAction = .tick) := fun hact => by
    rw [(faultedCoreIsFrozen s hf hact).1] at h
    cases h
    exact hlatch rfl
  rcases step_cases s with ⟨rom, hact, -⟩ | ⟨hact, -⟩ | ⟨hact, -⟩ | ⟨-, heq⟩
  · exact ⟨rom, hact⟩
  · exact absurd (.inl hact) hfrozen
  · exact absurd (.inr hact) hfrozen
  · cases heq.symm.trans h

end Sys2Proof.Proofs

/-! PROOFS. Power-on and `LOAD` under the default font table (70_reset_and_hazards.md R270 to R277): a step whose next
action is LOAD, by what `LOAD` writes of a ROM that fits and of one that does not. -/

namespace Sys2Proof.Machine

/-! ### LOAD as the next action (70_reset_and_hazards.md R270 to R272) -/

theorem step_of_nextAction_load {s : State} {rom : List Byte} (h : s.nextAction = .load rom) :
    step s = .next (s.dropAction.load Config.fontBytes rom) := by
  rw [step, h]
  rfl

/-- A ROM that fits leaves the latch clear, so memory is all that differs from the reset core (R270, R275). -/
theorem State.load_frame_of_fits (font : Config.FontTable) (s : State) {rom : List Byte} (hfit : rom.length ≤ 3584) :
    s.load font rom = { State.reset with mem := (s.load font rom).mem, port := s.port, inputs := s.inputs } := by
  have hframe := s.load_frame font rom
  rwa [s.load_fault, if_pos hfit] at hframe

/-- A ROM that does not fit leaves the reset core, its memory included, with the latch written (R272). -/
theorem State.load_of_too_long (s : State) {rom : List Byte} (hlong : 3584 < rom.length) :
    s.load Config.fontBytes rom = { State.reset with
      fault := ⟨.memoryOutOfBounds, 0x200, 0x0000, 0x1000⟩, port := s.port, inputs := s.inputs } := by
  rcases s.load_cases Config.fontBytes rom with ⟨-, heq⟩ | ⟨hfit, -⟩
  · rw [heq, State.resetCore_default]
    rfl
  · omega

/-! ### Power-on (70_reset_and_hazards.md R273) -/

/-- With no ROM byte to write, `LOAD` leaves the memory of power-on. -/
theorem State.load_empty_mem (s : State) : (s.load Config.fontBytes []).mem = State.reset.mem := by
  rcases s.load_cases Config.fontBytes [] with ⟨hlong, -⟩ | ⟨-, heq⟩
  · exact absurd hlong (by decide)
  · rw [heq, fontImage_default]
    rfl

/-- The memory of power-on lists no byte, so it holds the default font and zeros (10_state.md R40, R41). -/
theorem State.reset_mem_read (a : Nat) : State.reset.mem.read a = byteBeforeRom Config.fontBytes a := rfl

end Sys2Proof.Machine

namespace Sys2Proof.Proofs

open Sys2Proof.Machine

/-- Settles O2, from the memory that `LOAD` leaves and its frame for a ROM that fits. -/
theorem loadPlacesRomAndResets : Obligations.LoadPlacesRomAndResets := by
  unfold Obligations.LoadPlacesRomAndResets
  intro s rom rest hact hfit
  obtain ⟨hwf, hrom, hother⟩ := s.dropAction.load_mem_spec Config.fontBytes rom
  have hframe := s.dropAction.load_frame_of_fits Config.fontBytes hfit
  rw [State.dropAction_inputs, hact] at hframe
  refine ⟨_, step_of_nextAction_load (State.nextAction_of_cons hact), hrom hfit, fun a _ ha => ?_, hwf, hframe⟩
  rw [hother a (by omega)]
  exact ⟨byteBeforeRom_font, byteBeforeRom_zero⟩

/-- Settles O1: the registers by their reset values, and the first step by the cases of fetch and decode, since the word
at 0x200 is 0x0000. -/
theorem powerOnStateIsLoadOfEmptyRom : Obligations.PowerOnStateIsLoadOfEmptyRom := by
  unfold Obligations.PowerOnStateIsLoadOfEmptyRom
  refine ⟨?_, fun a _ => ?_, by decide, rfl, rfl, rfl, by decide, rfl, rfl, rfl, ?_⟩
  · rw [State.load_frame_of_fits Config.fontBytes _ (by decide), State.load_empty_mem]
  · rw [State.reset_mem_read]
    exact ⟨byteBeforeRom_font, byteBeforeRom_zero⟩
  · have hfaults := fetchAndDecodeFaultsInOrder State.reset rfl rfl
    rw [if_neg (by decide), if_neg (by decide)] at hfaults
    exact hfaults 0x0000 (by decide) (by decide)

/-- Settles O3: the step leaves the reset core FAULTED, and the reply reads its latch. -/
theorem loadOfTooLongRomFaults : Obligations.LoadOfTooLongRomFaults := by
  unfold Obligations.LoadOfTooLongRomFaults
  intro s rom rest hact hlong
  have hstep := step_of_nextAction_load (State.nextAction_of_cons hact)
  rw [State.load_of_too_long _ hlong, State.dropAction_inputs, hact] at hstep
  exact ⟨_, hstep, rfl, rfl⟩

end Sys2Proof.Proofs
